-- ==== Sys2Proof/Word.lean ====
section
/-!
DEFINITION. Widths of the IRD's fixed-width registers (10_state.md R15). Bit 0 is the least significant bit (R9).
The registers and ports whose width is a parameter (`IW`, `TW` of R6) are natural numbers with a bound: see log entry 5.
-/

namespace Sys2Proof

/-- The command register `code` and the constant `TARGET`: 8 bits (R15, R6). -/
abbrev Byte := BitVec 8

/-- The count of command bits still to be sampled, `bits_rem`: 3 bits (R15). -/
abbrev BitCount := BitVec 3

end Sys2Proof
end

