-- ==== Sys2Proof/Config.lean ====
section
/-!
DEFINITION. The implementation parameters of 00_scope.md R6, their legal range (R7), and the one free value of the
model: what the environment presents in a cycle for which no stimulus is listed.
-/

namespace Sys2Proof

/-- The build-time parameters of an IRD (R6, R27). The band bounds and the number of command bits are no parameters
(R6): they are constants of Machine/Operands.lean. -/
structure Config where
  /-- `IW`: width of the `interval` input in bits. -/
  iw : Nat
  /-- `TW`: width of the `elapsed` register in bits. -/
  tw : Nat
  /-- `TARGET`: the command code that arms the output. -/
  target : Byte
  /-- `THRESHOLD`: the actuation duration in counted ticks. -/
  threshold : Nat
deriving DecidableEq, Repr

/-- The default configuration of R6. -/
def Config.default : Config := { iw := 16, tw := 16, target := 0x5E, threshold := 39063 }

/-- R7: the configurations to which a model gives a meaning. `TARGET` is 8 bits wide by its type; one with bit 7 set is
legal (R7, R78). -/
abbrev Config.Legal (c : Config) : Prop :=
  10 ≤ c.iw ∧ 1 ≤ c.tw ∧ 1 ≤ c.threshold ∧ c.threshold ≤ 2 ^ c.tw - 1

/-- DESIGN CHOICE (log 2), safe. The word that the environment presents in cycle number `n` of the model when no
stimulus is listed for it. The spec leaves the inputs open (R90, D20, U6, R92), so this constant has no body. -/
opaque Config.envWord : Nat → Nat

end Sys2Proof
end

