-- ==== Sys2Proof/Syntax.lean ====
section
/-!
DEFINITION. The syntax: the operations of the opcode table (30_encoding.md R52), the inputs of a cycle (R48, R51), the
classifications (R55), the decode states (10_state.md R25) and the stimulus notation (R58, R59).
-/

namespace Sys2Proof

/-- The operations of the IRD, one constructor for each row of spec/opcode_table.json. -/
inductive Instr where
  /-- RESET (R107). -/
  | reset
  /-- EDGE (R66) with its `interval`, an unsigned number of `IW` bits (R50). -/
  | edge (interval : Nat)
  /-- TICK (R80). -/
  | tick
  /-- DISPATCH (R74), selected by the pre-state and by no input bit. -/
  | dispatch
  /-- NOP (R89). -/
  | nop
  /-- CLASSIFY (R63), combinational, with the inputs it reads. -/
  | classify (edgeValid : Bool) (interval : Nat)
deriving DecidableEq, Repr

/-- The input ports of one cycle other than `clk` (R48): the four fields of the cycle input word (R51). -/
structure CycleInput where
  rst : Bool
  tick : Bool
  edgeValid : Bool
  interval : Nat
deriving DecidableEq, Repr

/-- The four classifications that the classifier hands to the accumulator (R55). -/
inductive Classification where
  | ignore
  | zero
  | one
  | startBit
deriving DecidableEq, Repr

/-- The decode states of R25. `sampling n` carries the value of `bits_rem`. -/
inductive DecodeState where
  | awaitingStart
  | sampling (n : BitCount)
  | complete
deriving DecidableEq, Repr

/-- The stimulus statements of R58: the inputs of one cycle each. -/
inductive Statement where
  | reset
  | idle
  | edge (n : Nat)
  | tick
  | edgeTick (n : Nat)
deriving DecidableEq, Repr

/-- The pseudo-statements of R59. The command of `FRAME c` has seven bits (`0 <= c <= 0x7F`). -/
inductive PseudoStatement where
  | idle (k : Nat)
  | ticks (k : Nat)
  | bit (b : Bool)
  | frame (c : BitVec 7)
deriving DecidableEq, Repr

end Sys2Proof
end

