-- ==== Sys2Proof/WellFormed.lean ====
section
/-!
DEFINITION. Well-formedness of the syntax under a configuration: the one operand of the IRD, the `interval`, is a number
of `IW` bits (30_encoding.md R50, R57).
-/

namespace Sys2Proof

/-- An interval that the `IW`-bit port can carry (R50). -/
abbrev IntervalFits (c : Config) (v : Nat) : Prop := v < 2 ^ c.iw

/-- An operation whose operands fit their fields of the cycle input word (R51). -/
abbrev Instr.WellFormed (c : Config) (i : Instr) : Prop :=
  match i with
  | .reset => True
  | .edge v => IntervalFits c v
  | .tick => True
  | .dispatch => True
  | .nop => True
  | .classify _ v => IntervalFits c v

/-- Cycle inputs that the ports can carry (R48). -/
abbrev CycleInput.WellFormed (c : Config) (ci : CycleInput) : Prop := IntervalFits c ci.interval

/-- A stimulus statement whose interval is in the range of R58. -/
abbrev Statement.WellFormed (c : Config) (st : Statement) : Prop :=
  match st with
  | .reset => True
  | .idle => True
  | .edge n => IntervalFits c n
  | .tick => True
  | .edgeTick n => IntervalFits c n

end Sys2Proof
end

