-- ==== Sys2Proof/Decode.lean ====
section
/-!
DEFINITION. The decoder and after it the encoder: the cycle input word (30_encoding.md R51, R58), the operation map
(R52), the classification's code (R55) and the stimulus notation (R58, R59).
-/

namespace Sys2Proof

/-- Why a number is not decoded. -/
inductive DecodeError where
  /-- The number has a bit above bit `IW + 2`, so it is no cycle input word (R51). Every cycle input word is legal (R53). -/
  | notACycleInputWord
deriving DecidableEq, Repr

/-- The inputs that a cycle input word packs (R51): `rst` is bit `IW + 2`, `tick` bit `IW + 1`, `edge_valid` bit `IW`,
`interval` the bits below. -/
def decodeWord (iw w : Nat) : Except DecodeError CycleInput :=
  if w < 2 ^ (iw + 3) then
    .ok { rst := w.testBit (iw + 2), tick := w.testBit (iw + 1), edgeValid := w.testBit iw, interval := w % 2 ^ iw }
  else .error .notACycleInputWord

/-- The operations of the map of R52 that the inputs alone select, and DISPATCH, which the pre-state's `cmd_ready`
selects; NOP when there is none of them. -/
def CycleInput.selected (ci : CycleInput) (cmdReady : Bool) : List Instr :=
  if ci.rst then [.reset]
  else if !ci.edgeValid && !ci.tick && !cmdReady then [.nop]
  else
    (if ci.edgeValid then [.edge ci.interval] else []) ++ (if ci.tick then [.tick] else []) ++
      (if cmdReady then [.dispatch] else [])

/-- The operations of one cycle (R52): the selected ones, and CLASSIFY, which is evaluated in every cycle (R63). -/
def CycleInput.operations (ci : CycleInput) (cmdReady : Bool) : List Instr :=
  ci.selected cmdReady ++ [.classify ci.edgeValid ci.interval]

/-- The operations that a word selects in a pre-state whose `cmd_ready` is given (R52). -/
def decode (iw : Nat) (cmdReady : Bool) (w : Nat) : Except DecodeError (List Instr) :=
  match decodeWord iw w with
  | .ok ci => .ok (ci.operations cmdReady)
  | .error e => .error e

/-- The word of given inputs: the general form of R58. -/
def CycleInput.word (iw : Nat) (ci : CycleInput) : Nat :=
  (ci.rst.toNat <<< (iw + 2)) ||| (ci.tick.toNat <<< (iw + 1)) ||| (ci.edgeValid.toNat <<< iw) ||| ci.interval

/-- The inputs under which an operation's row of the opcode table stands, with every bit that the row leaves open at 0
(log 17). DISPATCH and NOP ask for no input bit. -/
def Instr.inputs (i : Instr) : CycleInput :=
  match i with
  | .reset => { rst := true, tick := false, edgeValid := false, interval := 0 }
  | .edge v => { rst := false, tick := false, edgeValid := true, interval := v }
  | .tick => { rst := false, tick := true, edgeValid := false, interval := 0 }
  | .dispatch => { rst := false, tick := false, edgeValid := false, interval := 0 }
  | .nop => { rst := false, tick := false, edgeValid := false, interval := 0 }
  | .classify e v => { rst := false, tick := false, edgeValid := e, interval := v }

/-- The encoder: the cycle input word of an operation's row. -/
def encode (iw : Nat) (i : Instr) : Nat := (i.inputs).word iw

/-- The instruction of a row of the opcode table (`IW = 16`, the table's layout): the first operation that the word
selects in a pre-state with `cmd_ready = 0`. Which row answers for a word that several rows share is said in log 9.
The cycle input word is one word of up to 19 bits, so `nbits` adds nothing to it. -/
def decodeTableWord (_nbits w : Nat) : Option Instr :=
  match decode Config.default.iw false w with
  | .ok (i :: _) => some i
  | .ok [] => none
  | .error _ => none

/-- The two bits of the internal signal `cls` (R55). -/
def Classification.code (c : Classification) : BitVec 2 :=
  match c with
  | .ignore => 0b00
  | .zero => 0b01
  | .one => 0b10
  | .startBit => 0b11

/-- The classification that two bits of `cls` stand for (R55). -/
def Classification.ofCode (b : BitVec 2) : Classification :=
  if b = 0b00 then .ignore else if b = 0b01 then .zero else if b = 0b10 then .one else .startBit

/-- The inputs of a stimulus statement (R58). -/
def Statement.inputs (st : Statement) : CycleInput :=
  match st with
  | .reset => { rst := true, tick := false, edgeValid := false, interval := 0 }
  | .idle => { rst := false, tick := false, edgeValid := false, interval := 0 }
  | .edge n => { rst := false, tick := false, edgeValid := true, interval := n }
  | .tick => { rst := false, tick := true, edgeValid := false, interval := 0 }
  | .edgeTick n => { rst := false, tick := true, edgeValid := true, interval := n }

/-- The cycle input word of a stimulus statement (R58). -/
def Statement.word (iw : Nat) (st : Statement) : Nat := (st.inputs).word iw

/-- `BIT b` (R59). -/
def bitStatement (b : Bool) : Statement := if b then .edge 450 else .edge 300

/-- The expansion of a pseudo-statement (R59). -/
def PseudoStatement.expand (p : PseudoStatement) : List Statement :=
  match p with
  | .idle k => List.replicate k .idle
  | .ticks k => List.replicate k .tick
  | .bit b => [bitStatement b]
  | .frame c => .edge 750 :: [6, 5, 4, 3, 2, 1, 0].map fun k => bitStatement (c.getLsbD k)

/-- The words of a stimulus program: its statements' words in order (R58). -/
def stimulusWords (iw : Nat) (p : List Statement) : List Nat := p.map (Statement.word iw)

end Sys2Proof
end

