-- ==== Sys2Proof/Machine/State.lean ====
section
/-!
DEFINITION. The state of the machine (10_state.md R15), the reasons a step can stop, and the state right after reset.
-/

namespace Sys2Proof.Machine

/-- The faults of the machine: none. The IRD raises no exception and has no error output (60_exceptions.md R94, R99), so
no step and no operation faults (log 16). -/
inductive Fault where
deriving DecidableEq, Repr

/-- The refusals of the machine. -/
inductive Refusal where
  /-- Raised by an arm of `exec` for an operation without a meaning; no arm of this model raises it. Safe. -/
  | notModelled (mnemonic : String)
  /-- Raised by `step` in a state whose configuration is illegal (00_scope.md R7: a model gives it no meaning). Safe. -/
  | illegalConfiguration
  /-- Raised by `step` when the listed stimulus word has a bit above bit `IW + 2`: it is no cycle input word
  (30_encoding.md R51), and no port can carry it (log 7). Safe. -/
  | notACycleInputWord
deriving DecidableEq, Repr

/-- The state of the machine: the configuration it is built with, the seven registers of R15 (a 1-bit register is a
Boolean, R11), and two fields of the model's own that hold its inputs. -/
structure State where
  /-- The build-time constants (R6, R27); no operation writes them. Log 4. -/
  cfg : Config
  /-- `start_seen` (R16). -/
  startSeen : Bool
  /-- `bits_rem` (R17). -/
  bitsRem : BitCount
  /-- `code` (R18). -/
  code : Byte
  /-- `cmd_ready` (R19). -/
  cmdReady : Bool
  /-- `armed` (R20). -/
  armed : Bool
  /-- `elapsed`, a number of `TW` bits (R21). Log 5. -/
  elapsed : Nat
  /-- `led_out` (R22). -/
  ledOut : Bool
  /-- The model's own: the cycle input words that the environment presents, this cycle's first. Log 1. -/
  stimulus : List Nat
  /-- The model's own: which free input word comes where no stimulus is listed. Log 3. -/
  cycle : Nat
deriving DecidableEq, Repr

/-- The machine right after a cycle with `rst = 1` (R107): `Initial` and `Idle` of R30, in the default configuration of
R6, with no stimulus listed. -/
def State.reset : State where
  cfg := Config.default
  startSeen := false
  bitsRem := 7
  code := 0x00
  cmdReady := false
  armed := false
  elapsed := 0
  ledOut := false
  stimulus := []
  cycle := 0

end Sys2Proof.Machine
end

