-- ==== Sys2Proof/Machine/Operands.lean ====
section
/-!
DEFINITION. The operands and the combinational values of the IRD: the fixed bands and the classifier
(40_classifier.md R60 to R63), the sampled bit's mask (41_accumulator.md R69) and the timer's increment
(43_timer.md R80).
-/

namespace Sys2Proof.Machine

/-- `START_LO` (R6), exclusive. -/
def startLo : Nat := 740
/-- `START_HI` (R6), exclusive. -/
def startHi : Nat := 760
/-- `ONE_LO` (R6), exclusive. -/
def oneLo : Nat := 440
/-- `ONE_HI` (R6), exclusive. -/
def oneHi : Nat := 460
/-- `NBITS` (R6): the command bits sampled after the start bit. -/
def nbits : BitCount := 7

/-- The strict unsigned comparison `in(lo, hi, v)` of R11. -/
def inBand (lo hi v : Nat) : Bool := decide (lo < v) && decide (v < hi)

/-- `is_start` of R60. -/
def isStart (v : Nat) : Bool := inBand startLo startHi v

/-- `is_one` of R60. -/
def isOne (v : Nat) : Bool := inBand oneLo oneHi v

/-- `RawClass` of R61: whatever is in no band is a Zero. -/
def rawClass (v : Nat) : Classification :=
  if isStart v then .startBit else if isOne v then .one else .zero

/-- `Listening` of R62. -/
def State.listening (s : State) : Bool := !s.cmdReady && !s.armed

/-- `CLASSIFY` of R63: the value of the internal signal `cls`. -/
def classify (s : State) (edgeValid : Bool) (v : Nat) : Classification :=
  if edgeValid then (if s.listening then rawClass v else .ignore) else .ignore

/-- The mask `1 << (n - 1)` of R69, 8 bits. -/
def sampleMask (n : BitCount) : Byte := 1#8 <<< (n - 1).toNat

/-- `e = elapsed + 1`, modulo `2^TW` (R80, D23). -/
def elapsedNext (s : State) : Nat := (s.elapsed + 1) % 2 ^ s.cfg.tw

end Sys2Proof.Machine
end

