-- ==== Sys2Proof/Machine/Flags.lean ====
section
/-!
DEFINITION. The conditions that the IRD's flags decide: the guards of the cycle step (44_cycle.md R86), the decode state
(10_state.md R25), and the outputs (R23, R34). The IRD has no condition codes (R26).
-/

namespace Sys2Proof.Machine

/-- `dispatch_fire` of R86: DISPATCH is selected by `cmd_ready` (R74). -/
def State.dispatchFires (s : State) : Bool := s.cmdReady

/-- The condition under which a DISPATCH arms (R74, R75): 8-bit equality with `TARGET` (R78), and not already armed. -/
def State.codeMatches (s : State) : Bool := decide (s.code = s.cfg.target) && !s.armed

/-- `match` of R86. -/
def State.matchFires (s : State) : Bool := s.dispatchFires && s.codeMatches

/-- The condition under which a tick is counted (R80, R81). -/
def State.countsTicks (s : State) : Bool := s.armed

/-- The condition under which a counted tick is the timeout (R83): `elapsed + 1 >= THRESHOLD`. -/
def State.reachesThreshold (s : State) : Bool := decide (s.cfg.threshold ≤ elapsedNext s)

/-- The sampled bit is the last one: `n - 1 = 0` (R70). -/
def lastBit (n : BitCount) : Bool := decide (n - 1 = 0)

/-- `DecodeStateOf` of R25. -/
def State.decodeState (s : State) : DecodeState :=
  if s.cmdReady then .complete else if s.startSeen then .sampling s.bitsRem else .awaitingStart

/-- The output `tick_en`, which is `armed` (R23). -/
def State.tickEn (s : State) : Bool := s.armed

end Sys2Proof.Machine
end

