-- ==== Sys2Proof/Machine/Ops.lean ====
section
/-!
DEFINITION. The named operations over the registers: the register writes of the spec's pseudocode, the cycle's inputs,
and how the writes of the operations of one cycle come together. The IRD has no memory (20_memory.md R35), takes no
exception and returns from none (60_exceptions.md R99, R100), so there is no operation for those.
-/

namespace Sys2Proof.Machine

/-- The decode reset: writes `Initial` to the four decode registers and nothing else (R30). -/
def State.decodeReset (s : State) : State :=
  { s with startSeen := false, bitsRem := nbits, code := 0x00, cmdReady := false }

/-- Writes `Idle` to the three actuation registers (R30). -/
def State.disarm (s : State) : State := { s with armed := false, elapsed := 0, ledOut := false }

/-- The full reset of the timeout (R83), which is also `ResetState` (R107, R110). -/
def State.fullReset (s : State) : State := s.disarm.decodeReset

/-- The three writes of a matching DISPATCH (R75). -/
def State.arm (s : State) : State := { s with armed := true, elapsed := 0, ledOut := true }

/-- A start accept (R68): `code` is not written (D11). -/
def State.acceptStart (s : State) : State := { s with startSeen := true, bitsRem := nbits }

/-- A bit is sampled in `Sampling(n)`, `n > 0` (R69, R70): a One is OR-ed in at bit `n - 1`; `bits_rem` goes down by one;
`cmd_ready` is set when it reaches 0. -/
def State.sampleBit (s : State) (one : Bool) : State :=
  { s with
    code := if one then s.code ||| sampleMask s.bitsRem else s.code
    bitsRem := s.bitsRem - 1
    cmdReady := if lastBit s.bitsRem then true else s.cmdReady }

/-- A counted tick below the threshold (R82). -/
def State.countTick (s : State) : State := { s with elapsed := elapsedNext s }

/-- The word on the input ports in this cycle: the first listed one, else the environment's free one, of which the
ports carry `IW + 3` bits (log 1, log 2). -/
def State.inputWord (s : State) : Nat :=
  match s.stimulus with
  | w :: _ => w
  | [] => Config.envWord s.cycle % 2 ^ (s.cfg.iw + 3)

/-- The environment moves on to the next cycle's inputs: an input is used in its cycle or lost (R38). -/
def State.nextCycle (s : State) : State :=
  { s with stimulus := s.stimulus.drop 1, cycle := s.cycle + 1 }

/-- `new` where an operation has changed the register from `old`, else what the cycle has so far. -/
def writeOver {α : Type} [DecidableEq α] (old new sofar : α) : α := if new = old then sofar else new

/-- Applies to `acc` the register writes that lead from the pre-state `pre` to `post` (R10: a register that no rule
writes keeps its value; R88: the writes of a cycle's operations applied in sequence). Writing the value a register
already has is no change, so it is seen as no write (log 10). -/
def State.commit (pre post acc : State) : State :=
  { acc with
    startSeen := writeOver pre.startSeen post.startSeen acc.startSeen
    bitsRem := writeOver pre.bitsRem post.bitsRem acc.bitsRem
    code := writeOver pre.code post.code acc.code
    cmdReady := writeOver pre.cmdReady post.cmdReady acc.cmdReady
    armed := writeOver pre.armed post.armed acc.armed
    elapsed := writeOver pre.elapsed post.elapsed acc.elapsed
    ledOut := writeOver pre.ledOut post.ledOut acc.ledOut }

end Sys2Proof.Machine
end

