-- ==== Sys2Proof/Machine/Accumulator.lean ====
section
/-!
DEFINITION. EDGE (41_accumulator.md R66 to R73).
-/

namespace Sys2Proof.Machine

/-- The post-state of an EDGE whose classification is `c`, in the order of R66's pseudocode: discarded (R67), awaiting
the start bit (R68), `Sampling(0)` (R71), `Sampling(n)` (R69, R70, R72). -/
def edgeOn (c : Classification) (s : State) : State :=
  if c = .ignore then s
  else if s.startSeen = false then (if c = .startBit then s.acceptStart else s)
  else if s.bitsRem = 0 then s
  else s.sampleBit (decide (c = .one))

/-- EDGE (R66): one falling edge with its interval. -/
def execEdge (interval : Nat) (s : State) : Host.Outcome State Fault Refusal :=
  .next (edgeOn (classify s true interval) s)

end Sys2Proof.Machine
end

