-- ==== Sys2Proof/Machine/Classifier.lean ====
section
/-!
DEFINITION. CLASSIFY (40_classifier.md R63, R64).
-/

namespace Sys2Proof.Machine

/-- CLASSIFY is combinational: it writes no register and keeps no interval (R64). Its value is
`classify s edgeValid interval` (R63), which EDGE consumes in the same cycle (R66, log 14). -/
def execClassify (_edgeValid : Bool) (_interval : Nat) (s : State) : Host.Outcome State Fault Refusal := .next s

end Sys2Proof.Machine
end

