-- ==== Sys2Proof/Machine/Detector.lean ====
section
/-!
DEFINITION. DISPATCH (42_dispatch.md R74 to R79).
-/

namespace Sys2Proof.Machine

/-- DISPATCH (R74): a match arms (R75), and the decoder is reset whether matched or not (R76). In a pre-state with
`cmd_ready = 0` the operation is not selected (R52), and it writes nothing (log 8). -/
def execDispatch (s : State) : Host.Outcome State Fault Refusal :=
  if s.dispatchFires then .next (if s.codeMatches then s.arm.decodeReset else s.decodeReset) else .next s

end Sys2Proof.Machine
end

