-- ==== Sys2Proof/Machine/ResetNop.lean ====
section
/-!
DEFINITION. RESET (70_reset_and_hazards.md R107) and NOP (44_cycle.md R89).
-/

namespace Sys2Proof.Machine

/-- RESET (R107): all seven registers to their reset values. The configuration is no register (R27). -/
def execReset (s : State) : Host.Outcome State Fault Refusal := .next s.fullReset

/-- NOP (R89): every register keeps its value. -/
def execNop (s : State) : Host.Outcome State Fault Refusal := .next s

end Sys2Proof.Machine
end

