-- ==== Sys2Proof/Machine/Timer.lean ====
section
/-!
DEFINITION. TICK (43_timer.md R80 to R85).
-/

namespace Sys2Proof.Machine

/-- TICK (R80): ignored while not armed (R81), counted below the threshold (R82), the full reset on reaching it (R83). -/
def execTick (s : State) : Host.Outcome State Fault Refusal :=
  .next (if s.countsTicks then (if s.reachesThreshold then s.fullReset else s.countTick) else s)

end Sys2Proof.Machine
end

