-- ==== Sys2Proof/Machine/Dispatch.lean ====
section
/-!
DEFINITION. The meaning of each operation, one arm per constructor of Instr.
-/

namespace Sys2Proof.Machine

def exec (i : Instr) (s : State) : Host.Outcome State Fault Refusal :=
  match i with
  | .reset => Sys2Proof.Machine.execReset s
  | .edge interval => Sys2Proof.Machine.execEdge interval s
  | .tick => Sys2Proof.Machine.execTick s
  | .dispatch => Sys2Proof.Machine.execDispatch s
  | .nop => Sys2Proof.Machine.execNop s
  | .classify edgeValid interval => Sys2Proof.Machine.execClassify edgeValid interval s

end Sys2Proof.Machine
end

