-- ==== Sys2Proof/Machine/Cycle.lean ====
section
/-!
DEFINITION. One cycle: the operations that the word and the pre-state select, all performed from the same pre-state
(44_cycle.md R86 to R88, 20_memory.md R39), and the word put on the input ports.
-/

namespace Sys2Proof.Machine

/-- Performs the operations one after another, each with its guards and operands read from the pre-state `pre`, and its
writes applied to what the cycle has so far, `acc` (R88). -/
def perform (pre acc : State) (ops : List Instr) : Host.Outcome State Fault Refusal :=
  match ops with
  | [] => .next acc
  | i :: rest =>
    match exec i pre with
    | .next post => perform pre (pre.commit post acc) rest
    | .fault r => .fault r
    | .refused r => .refused r

/-- The cycle of a pre-state under an input word (R52, R86). A number that is no cycle input word is refused (log 7). -/
def runCycle (s : State) (w : Nat) : Host.Outcome State Fault Refusal :=
  match decode s.cfg.iw s.cmdReady w with
  | .ok ops => perform s s ops
  | .error .notACycleInputWord => .refused .notACycleInputWord

/-- `s` with `w` as the word of the coming cycle. -/
def State.withInput (s : State) (w : Nat) : State := { s with stimulus := w :: s.stimulus.drop 1 }

end Sys2Proof.Machine
end

