-- ==== Sys2Proof/Machine/Step.lean ====
section
/-!
DEFINITION. The step: one clock cycle (44_cycle.md R86, R92).
-/

namespace Sys2Proof.Machine

/-- One clock cycle: the word on the ports is sampled once (R49) and the cycle runs from the pre-state. An illegal
configuration has no meaning (R7). -/
def step (s : State) : Host.Outcome State Fault Refusal :=
  if s.cfg.Legal then runCycle s.nextCycle s.inputWord else .refused .illegalConfiguration

/-- `s` with `w` as the cycle input word that the very next step samples. Nothing else is needed: the IRD has no
program counter and fetches nothing (R24), and the word has no more bits than `w` shows. -/
def State.withFetchWord (s : State) (_nbits w : Nat) : State := s.withInput w

end Sys2Proof.Machine
end

