-- ==== Sys2Proof/Safety.lean ====
section
/-!
DEFINITION. The vocabulary of the claims: the invariants V1 to V8 of 10_state.md R31, the range of the registers, the
equations of the cycle step as 44_cycle.md R86 writes them, and runs of several cycles.
-/

namespace Sys2Proof.Machine

/-! ## The invariants of R31 -/

/-- V1: before a start bit the decode registers are `Initial`. -/
abbrev State.V1 (s : State) : Prop :=
  s.startSeen = false → s.bitsRem = 7 ∧ s.code = 0x00 ∧ s.cmdReady = false

/-- V2: a command is pending exactly when all bits are sampled. -/
abbrev State.V2 (s : State) : Prop := s.cmdReady = true ↔ s.startSeen = true ∧ s.bitsRem = 0

/-- V3: no bit of `code` below the next sampling position is set, nor bit 7. -/
abbrev State.V3 (s : State) : Prop :=
  s.startSeen = true → (∀ k, k < s.bitsRem.toNat → s.code.getLsbD k = false) ∧ s.code.getLsbD 7 = false

/-- V4: no command is pending while armed. -/
abbrev State.V4 (s : State) : Prop := s.cmdReady = true → s.armed = false

/-- V5: the decode registers are `Initial` while armed. -/
abbrev State.V5 (s : State) : Prop :=
  s.armed = true → s.startSeen = false ∧ s.bitsRem = 7 ∧ s.code = 0x00 ∧ s.cmdReady = false

/-- V6: the count is 0 while not armed, and below the threshold while armed. -/
abbrev State.V6 (s : State) : Prop :=
  (s.armed = false → s.elapsed = 0) ∧ (s.armed = true → s.elapsed < s.cfg.threshold)

/-- V7: the output is on exactly while armed. -/
abbrev State.V7 (s : State) : Prop := s.ledOut = s.armed

/-- V1 to V7 together (R31). V8 is about a cycle: `State.atMostOneTakesEffect`. -/
abbrev State.Inv (s : State) : Prop := s.V1 ∧ s.V2 ∧ s.V3 ∧ s.V4 ∧ s.V5 ∧ s.V6 ∧ s.V7

/-- The listed stimulus holds cycle input words only, each of `IW + 3` bits (30_encoding.md R51). -/
abbrev State.StimulusFits (s : State) : Prop := ∀ w ∈ s.stimulus, w < 2 ^ (s.cfg.iw + 3)

/-- What the widths ask for (R15, R51, R7): a legal configuration, a count of `TW` bits, words of `IW + 3` bits. -/
abbrev State.InRange (s : State) : Prop := s.cfg.Legal ∧ s.elapsed < 2 ^ s.cfg.tw ∧ s.StimulusFits

/-- All seven registers hold their reset values (`ResetState` of R107). -/
abbrev State.IsResetState (s : State) : Prop :=
  s.startSeen = false ∧ s.bitsRem = 7 ∧ s.code = 0x00 ∧ s.cmdReady = false ∧
    s.armed = false ∧ s.elapsed = 0 ∧ s.ledOut = false

/-- The four decode registers hold `Initial` (R30). -/
abbrev State.DecodeInitial (s : State) : Prop :=
  s.startSeen = false ∧ s.bitsRem = 7 ∧ s.code = 0x00 ∧ s.cmdReady = false

/-- Two states agree on the fields that are no register: the configuration and the model's own. -/
abbrev State.SameOutside (s t : State) : Prop :=
  t.cfg = s.cfg ∧ t.stimulus = s.stimulus ∧ t.cycle = s.cycle

/-! ## The cycle step in R86's own equations -/

/-- `edge_fire` of R86. -/
def State.edgeFires (s : State) (ci : CycleInput) : Bool := ci.edgeValid && (!s.cmdReady && !s.armed)

/-- `tick_counted` of R86. -/
def State.tickCounted (s : State) (ci : CycleInput) : Bool := ci.tick && s.armed

/-- `timeout_fire` of R86. -/
def State.timeoutFires (s : State) (ci : CycleInput) : Bool :=
  s.tickCounted ci && decide (s.cfg.threshold ≤ (s.elapsed + 1) % 2 ^ s.cfg.tw)

/-- V8 of R31 for one cycle: at most one of a classified EDGE, a DISPATCH and a counted TICK. -/
abbrev State.atMostOneTakesEffect (s : State) (ci : CycleInput) : Prop :=
  ¬ (s.edgeFires ci = true ∧ s.dispatchFires = true) ∧ ¬ (s.edgeFires ci = true ∧ s.tickCounted ci = true) ∧
    ¬ (s.dispatchFires = true ∧ s.tickCounted ci = true)

/-- The decode registers of the post-state of R86 in a cycle with `rst = 0`. `edgeOn` with the band's classification is
EDGE while listening (R66). -/
def cycleDecode (s : State) (ci : CycleInput) : State :=
  if s.dispatchFires || s.timeoutFires ci then { s with startSeen := false, bitsRem := 7, code := 0x00, cmdReady := false }
  else if s.edgeFires ci then edgeOn (rawClass ci.interval) s
  else s

/-- The post-state of R86: `ResetState` on `rst`, else the decode registers of `cycleDecode` and the `else if` chain of
the actuation registers. `step` performs the operations of R52 instead; that it gives this state is a statement. -/
def cycleRule (s : State) (ci : CycleInput) : State :=
  if ci.rst then
    { s with startSeen := false, bitsRem := 7, code := 0x00, cmdReady := false, armed := false, elapsed := 0,
             ledOut := false }
  else
    let d := cycleDecode s ci
    if s.timeoutFires ci then { d with armed := false, elapsed := 0, ledOut := false }
    else if s.cmdReady && decide (s.code = s.cfg.target) && !s.armed then
      { d with armed := true, elapsed := 0, ledOut := true }
    else if s.tickCounted ci then
      { d with armed := s.armed, elapsed := (s.elapsed + 1) % 2 ^ s.cfg.tw, ledOut := s.ledOut }
    else { d with armed := s.armed, elapsed := s.elapsed, ledOut := s.ledOut }

/-! ## Runs -/

/-- `n` cycles, stopping at the first fault or refusal. -/
def cycles (n : Nat) (s : State) : Host.Outcome State Fault Refusal :=
  match n with
  | 0 => .next s
  | n + 1 =>
    match step s with
    | .next t => cycles n t
    | .fault r => .fault r
    | .refused r => .refused r

/-- A word whose `rst` bit is 0 (R51). -/
abbrev NoReset (iw w : Nat) : Prop := w < 2 ^ (iw + 3) ∧ w.testBit (iw + 2) = false

/-- How many of the words bring a tick (R51). -/
def tickCount (iw : Nat) (ws : List Nat) : Nat := ws.countP fun w => w.testBit (iw + 1)

/-- The intervals of the edges that the words bring, in order (R51). -/
def edgeIntervals (iw : Nat) (ws : List Nat) : List Nat :=
  (ws.filter fun w => w.testBit iw).map fun w => w % 2 ^ iw

/-- The command that a shift register makes of bit intervals, most significant bit first (R69's remark, C4). -/
def shiftedCode (vs : List Nat) : Byte :=
  vs.foldl (fun c v => (c <<< 1) ||| (if 440 < v ∧ v < 460 then 1#8 else 0#8)) 0#8

end Sys2Proof.Machine
end

