-- ==== Sys2Proof/Certificates/Slice0/Obligations.lean ====
section
/-!
DEFINITION. The statements for the provers. A docstring names the rule of spec/ that its statement formalises; where the
spec marks that rule or sentence as its own decision (D<n>) or derivation, the docstring says so, and where a clause is a
choice of the model's, it names the log entry.
-/

open Sys2Proof Sys2Proof.Machine

/-! ## Words -/

/-- R58, R52. A few words as the spec writes them (30_encoding.md section 2), decoded to the operations they stand for;
the last four with the pre-state's `cmd_ready`. Which row answers for a word that several rows share is the model's
choice (log 9). -/
def Obligations.SpecWordsDecodeAsWritten : Prop :=
  decodeTableWord 24 0x102EE = some (.edge 750) ∧
  decodeTableWord 24 0x20000 = some .tick ∧
  decodeTableWord 24 0x40000 = some .reset ∧
  decodeTableWord 24 0x00000 = some .nop ∧
  decode 16 false 0x7FFFF = .ok [.reset, .classify true 65535] ∧
  decode 16 false 0x0FFFF = .ok [.nop, .classify false 65535] ∧
  decode 16 true 0x00000 = .ok [.dispatch, .classify false 0] ∧
  decode 16 true 0x302EE = .ok [.edge 750, .tick, .dispatch, .classify true 750]

/-- R51. The cycle input word packs `rst`, `tick`, `edge_valid` and `interval` at bits `IW + 2`, `IW + 1`, `IW` and
`IW - 1 : 0`: decoding a packed word gives the inputs back, and packing a decoded word gives the word back, so no bit is
dropped in either direction. The rule's four words for `IW = 16` are those of `EDGE 750`, `TICK`, `RESET` and an idle
cycle. -/
def Obligations.InputWordsRoundTrip : Prop :=
  (∀ (iw : Nat) (ci : CycleInput), ci.interval < 2 ^ iw →
    ci.word iw < 2 ^ (iw + 3) ∧ decodeWord iw (ci.word iw) = .ok ci ∧
    ci.word iw = (ci.rst.toNat <<< (iw + 2)) ||| (ci.tick.toNat <<< (iw + 1)) ||| (ci.edgeValid.toNat <<< iw) |||
      ci.interval) ∧
  (∀ iw w : Nat, w < 2 ^ (iw + 3) → ∃ ci : CycleInput, decodeWord iw w = .ok ci ∧ ci.interval < 2 ^ iw ∧ ci.word iw = w) ∧
  (CycleInput.word 16 ⟨false, false, true, 750⟩ = 0x102EE ∧ CycleInput.word 16 ⟨false, true, false, 0⟩ = 0x20000 ∧
    CycleInput.word 16 ⟨true, false, false, 0⟩ = 0x40000 ∧ CycleInput.word 16 ⟨false, false, false, 0⟩ = 0x00000)

/-- R52 (the spec's decisions D7, D8, D18). The operation map: which operations a cycle's inputs and the pre-state's
`cmd_ready` (here `d`) select. One cycle may select several. -/
def Obligations.InputsAndStateSelectTheOperations : Prop :=
  ∀ (ci : CycleInput) (d : Bool),
    (Instr.reset ∈ ci.operations d ↔ ci.rst = true) ∧
    (∀ v, Instr.edge v ∈ ci.operations d ↔ ci.rst = false ∧ ci.edgeValid = true ∧ v = ci.interval) ∧
    (Instr.tick ∈ ci.operations d ↔ ci.rst = false ∧ ci.tick = true) ∧
    (Instr.dispatch ∈ ci.operations d ↔ ci.rst = false ∧ d = true) ∧
    (Instr.nop ∈ ci.operations d ↔ ci.rst = false ∧ ci.edgeValid = false ∧ ci.tick = false ∧ d = false) ∧
    (∀ e v, Instr.classify e v ∈ ci.operations d ↔ e = ci.edgeValid ∧ v = ci.interval)

/-- 30_encoding.md section 2 and the opcode table. For every well-formed operation, with its interval at every value of
`IW` bits, the word of its row selects it in every pre-state in which the row stands. For RESET, EDGE, TICK, DISPATCH and
NOP the word selects beside it only what every such cycle has: DISPATCH where `cmd_ready` is 1 and the word is no RESET,
and CLASSIFY. CLASSIFY is the exception: no input selects it, so its word also selects the operations that the inputs it
reads select, an EDGE with `edge_valid` = 1, and without an edge NOP where `cmd_ready` is 0. That the bits a row leaves
open are encoded as 0 is the model's choice (log 17). -/
def Obligations.DecodeOfEncodeSelectsTheOperation : Prop :=
  ∀ (c : Config) (i : Instr), i.WellFormed c →
    match i with
    | .reset => ∀ d, decode c.iw d (encode c.iw i) = .ok [i, .classify false 0]
    | .edge v =>
      decode c.iw false (encode c.iw i) = .ok [i, .classify true v] ∧
      decode c.iw true (encode c.iw i) = .ok [i, .dispatch, .classify true v]
    | .tick =>
      decode c.iw false (encode c.iw i) = .ok [i, .classify false 0] ∧
      decode c.iw true (encode c.iw i) = .ok [i, .dispatch, .classify false 0]
    | .dispatch => decode c.iw true (encode c.iw i) = .ok [i, .classify false 0]
    | .nop => decode c.iw false (encode c.iw i) = .ok [i, .classify false 0]
    | .classify e v => ∀ d, decode c.iw d (encode c.iw i) = .ok ((i.inputs).selected d ++ [.classify e v])

/-- R58, R59. The words of the stimulus statements for `IW = 16`, and the expansion of each pseudo-statement. -/
def Obligations.StimulusNotationExpands : Prop :=
  Statement.word 16 .reset = 0x40000 ∧ Statement.word 16 .idle = 0x00000 ∧ Statement.word 16 .tick = 0x20000 ∧
  (∀ n, Statement.word 16 (.edge n) = 0x10000 ||| n) ∧
  (∀ n, Statement.word 16 (.edgeTick n) = 0x30000 ||| n) ∧
  (∀ k, (PseudoStatement.idle k).expand = List.replicate k .idle) ∧
  (∀ k, (PseudoStatement.ticks k).expand = List.replicate k .tick) ∧
  (∀ b, (PseudoStatement.bit b).expand = [if b then .edge 450 else .edge 300]) ∧
  (∀ c : BitVec 7, (PseudoStatement.frame c).expand =
    .edge 750 :: ([6, 5, 4, 3, 2, 1, 0].flatMap fun k => (PseudoStatement.bit (c.getLsbD k)).expand))

/-! ## The classifier -/

/-- R60, R61. The two comparators are strict and disjoint, and whatever is in neither band is a Zero. -/
def Obligations.ThresholdComparatorsAreStrict : Prop :=
  ∀ v : Nat,
    (isStart v = true ↔ 740 < v ∧ v < 760) ∧ (isOne v = true ↔ 440 < v ∧ v < 460) ∧
    ¬ (isStart v = true ∧ isOne v = true) ∧
    (rawClass v = .startBit ↔ 740 < v ∧ v < 760) ∧ (rawClass v = .one ↔ 440 < v ∧ v < 460) ∧
    (rawClass v = .zero ↔ ¬ (740 < v ∧ v < 760) ∧ ¬ (440 < v ∧ v < 460))

/-- R63, R64. CLASSIFY, evaluated in every cycle, gives `Ignore` without an edge and while not listening (R62), else the
interval's raw classification; the operation completes and writes nothing. (Where the state-dependent policies sit is the
spec's decision D25.) -/
def Obligations.ClassifyIsGatedByListening : Prop :=
  ∀ (s : State) (v : Nat),
    (s.listening = true ↔ s.cmdReady = false ∧ s.armed = false) ∧
    classify s false v = .ignore ∧
    (s.cmdReady = true ∨ s.armed = true → classify s true v = .ignore) ∧
    (s.cmdReady = false → s.armed = false → classify s true v = rawClass v) ∧
    (∀ e, exec (.classify e v) s = .next s) ∧
    ∀ ci : CycleInput, .classify ci.edgeValid ci.interval ∈ ci.operations s.cmdReady

/-- R55. The four values of `cls` and their two-bit code (the binary values are the spec's decision D16). -/
def Obligations.ClassificationHasItsCode : Prop :=
  Classification.code .ignore = 0b00 ∧ Classification.code .zero = 0b01 ∧ Classification.code .one = 0b10 ∧
  Classification.code .startBit = 0b11 ∧ (∀ c, Classification.ofCode (Classification.code c) = c) ∧
  ∀ b, Classification.code (Classification.ofCode b) = b

/-! ## EDGE -/

/-- R66. EDGE is selected by `rst = 0` and `edge_valid = 1`; it completes in every state with every interval, and its post-state is that of the rule's pseudocode: nothing
while not listening, a start accept, nothing in `Sampling(0)`, or a sampled bit. -/
def Obligations.EdgeFollowsTheAccumulatorRule : Prop :=
  (∀ ci : CycleInput, ∀ d, ci.rst = false → ci.edgeValid = true → .edge ci.interval ∈ ci.operations d) ∧
  ∀ (s : State) (v : Nat),
    exec (.edge v) s = .next (
      if s.cmdReady = true ∨ s.armed = true then s
      else if s.startSeen = false then
        (if 740 < v ∧ v < 760 then { s with startSeen := true, bitsRem := 7 } else s)
      else if s.bitsRem = 0 then s
      else { s with
        code := if 440 < v ∧ v < 460 then s.code ||| 1#8 <<< (s.bitsRem.toNat - 1) else s.code
        bitsRem := s.bitsRem - 1
        cmdReady := decide (s.bitsRem = 1) })

/-- R67. An EDGE whose pre-state is not listening changes no register, whatever its interval. -/
def Obligations.EdgeIsDiscardedWhenNotListening : Prop :=
  ∀ (s : State) (v : Nat), s.cmdReady = true ∨ s.armed = true → exec (.edge v) s = .next s

/-- R69 (its frame). A sampling EDGE goes down by one bit position; bit `n - 1` of `code` becomes 1 on a One and keeps its
value otherwise, and every other bit, bit 7 among them, keeps its value. Nothing else but `cmd_ready` changes. -/
def Obligations.SamplingTouchesOneCodeBit : Prop :=
  ∀ (s t : State) (v : Nat), s.listening = true → s.startSeen = true → s.bitsRem ≠ 0 → exec (.edge v) s = .next t →
    t.bitsRem.toNat + 1 = s.bitsRem.toNat ∧
    (∀ k, k + 1 ≠ s.bitsRem.toNat → t.code.getLsbD k = s.code.getLsbD k) ∧
    t.code.getLsbD (s.bitsRem.toNat - 1) = (s.code.getLsbD (s.bitsRem.toNat - 1) || decide (440 < v ∧ v < 460)) ∧
    t.startSeen = true ∧ t.armed = s.armed ∧ t.elapsed = s.elapsed ∧ t.ledOut = s.ledOut ∧ s.SameOutside t

/-- R70. The EDGE that samples the last bit raises `cmd_ready` in the same cycle and leaves `start_seen` at 1; the next
cycle is not listening and, unless it is a RESET, performs the DISPATCH. An EDGE that samples an earlier bit does not
raise it. (That the next cycle dispatches is the spec's decision D7.) -/
def Obligations.LastBitCompletesTheCommand : Prop :=
  ∀ (s : State) (v : Nat), s.listening = true → s.startSeen = true → s.bitsRem ≠ 0 →
    ∃ t, exec (.edge v) s = .next t ∧ t.startSeen = true ∧
      (s.bitsRem = 1 → t.bitsRem = 0 ∧ t.cmdReady = true ∧ t.listening = false ∧
        ∀ ci : CycleInput, ci.rst = false → .dispatch ∈ ci.operations t.cmdReady) ∧
      (s.bitsRem ≠ 1 → t.bitsRem ≠ 0 ∧ t.cmdReady = false)

/-- R72. While sampling, a start-band interval is treated as any interval outside the One band: it decrements `bits_rem`,
sets no bit and does not restart the frame. -/
def Obligations.StartBandMidFrameIsAZero : Prop :=
  ∀ (s : State) (v w : Nat), s.listening = true → s.startSeen = true → s.bitsRem ≠ 0 → 740 < v → v < 760 →
    ¬ (440 < w ∧ w < 460) →
    exec (.edge v) s = exec (.edge w) s ∧
    ∃ t, exec (.edge v) s = .next t ∧ t.bitsRem.toNat + 1 = s.bitsRem.toNat ∧ t.code = s.code ∧ t.startSeen = true

/-! ## DISPATCH -/

/-- R74. DISPATCH is selected in every cycle with `rst = 0` and `cmd_ready = 1`. There it completes: on equality with `TARGET` while not armed it lights the output, zeroes
the count and arms; the decoder is reset in every case. -/
def Obligations.DispatchFollowsItsRule : Prop :=
  ∀ s : State, s.cmdReady = true →
    (∀ ci : CycleInput, ci.rst = false → .dispatch ∈ ci.operations s.cmdReady) ∧
    exec .dispatch s = .next (
      if s.code = s.cfg.target ∧ s.armed = false then
        { s with ledOut := true, elapsed := 0, armed := true, startSeen := false, bitsRem := 7, code := 0x00,
                 cmdReady := false }
      else { s with startSeen := false, bitsRem := 7, code := 0x00, cmdReady := false })

/-- The model's choice (log 8): a DISPATCH that its pre-state does not select completes and writes nothing. -/
def Obligations.UnselectedDispatchWritesNothing : Prop :=
  ∀ s : State, s.cmdReady = false → exec .dispatch s = .next s

/-- R76. A code that is not `TARGET` is discarded: only the decode reset is written, so the output, the count and `armed`
keep their values, and a state that was not armed listens again. -/
def Obligations.MismatchOnlyResetsTheDecoder : Prop :=
  ∀ s : State, s.cmdReady = true → s.code ≠ s.cfg.target →
    ∃ t, exec .dispatch s = .next t ∧ t.DecodeInitial ∧ t.ledOut = s.ledOut ∧ t.armed = s.armed ∧
      t.elapsed = s.elapsed ∧ s.SameOutside t ∧ (s.armed = false → t.listening = true)

/-- R79 (the spec's decision D7). The cycle whose pre-state has `cmd_ready = 1` selects DISPATCH unless it is a RESET, which
drops the command undispatched. Whatever its inputs, the cycle leaves the decoder at `Initial`, with `cmd_ready` at 0: so
a command is dispatched at most once, and once where no RESET comes. During that cycle the IRD is not listening. -/
def Obligations.PendingCommandIsDispatchedOnce : Prop :=
  ∀ s : State, s.cfg.Legal → s.StimulusFits → s.cmdReady = true →
    (∀ ci : CycleInput, ci.rst = false → .dispatch ∈ ci.operations s.cmdReady) ∧
    s.listening = false ∧
    ∃ t, step s = .next t ∧ t.DecodeInitial ∧ t.cmdReady = false

/-! ## TICK -/

/-- R80. TICK is selected by `rst = 0` and `tick = 1`; it completes in every state: ignored while not armed, else counted modulo `2^TW`, or the full reset where the
count reaches `THRESHOLD`. -/
def Obligations.TickFollowsItsRule : Prop :=
  (∀ ci : CycleInput, ∀ d, ci.rst = false → ci.tick = true → .tick ∈ ci.operations d) ∧
  ∀ s : State,
    exec .tick s = .next (
      if s.armed = false then s
      else if s.cfg.threshold ≤ (s.elapsed + 1) % 2 ^ s.cfg.tw then
        { s with ledOut := false, armed := false, elapsed := 0, startSeen := false, bitsRem := 7, code := 0x00,
                 cmdReady := false }
      else { s with elapsed := (s.elapsed + 1) % 2 ^ s.cfg.tw })

/-- 43_timer.md R83 with 70_reset_and_hazards.md R110 (derived there): the timeout leaves exactly what RESET leaves. -/
def Obligations.TimeoutEqualsReset : Prop :=
  ∀ s : State, s.armed = true → s.cfg.threshold ≤ (s.elapsed + 1) % 2 ^ s.cfg.tw →
    exec .tick s = exec .reset s ∧ ∃ t, exec .tick s = .next t ∧ t.IsResetState

/-! ## RESET and NOP -/

/-- R107 (the reset input and its timing are the spec's decision D9, `led_out` at 0 its decision D10). RESET completes
in every state and leaves all seven registers at their reset values; every cycle with `rst = 1` is a RESET, whatever its
other inputs and its pre-state, and `tick_en` is 0 after it. -/
def Obligations.ResetLeavesTheResetState : Prop :=
  (∀ s : State, exec .reset s = .next
    { s with startSeen := false, bitsRem := 7, code := 0x00, cmdReady := false, armed := false, elapsed := 0,
             ledOut := false }) ∧
  ∀ (s : State) (w : Nat), s.cfg.Legal → w < 2 ^ (s.cfg.iw + 3) → w.testBit (s.cfg.iw + 2) = true →
    ∃ t, step (s.withInput w) = .next t ∧ t.IsResetState ∧ t.tickEn = false

/-- 44_cycle.md R89 (derived there): NOP completes and writes nothing, and a cycle in which no event comes and no command
is pending leaves every register as it was. How the inputs are held and moved on (`withInput`, `nextCycle`) is the model's
choice (log 1, log 3). -/
def Obligations.NopLeavesEveryRegister : Prop :=
  (∀ s : State, exec .nop s = .next s) ∧
  ∀ (s : State) (w : Nat), s.cfg.Legal → s.cmdReady = false → w < 2 ^ s.cfg.iw →
    step (s.withInput w) = .next (s.withInput w).nextCycle

/-! ## What operations may write -/

/-- 10_state.md section 1, the column "written by" of the register table, with the conditions of the writers' own rules:
the decode registers change only by an EDGE, a selected DISPATCH, the timeout of a TICK, or RESET; `armed` and `led_out`
only by a matching DISPATCH, the timeout of a TICK, or RESET; `elapsed` by a matching DISPATCH, any counted TICK, or RESET.
No operation writes the configuration or the model's own fields. That a DISPATCH which is not selected writes nothing is
the model's reading (log 8). -/
def Obligations.RegistersAreWrittenOnlyByTheirOperations : Prop :=
  ∀ (i : Instr) (s t : State), exec i s = .next t →
    s.SameOutside t ∧
    (t.startSeen ≠ s.startSeen ∨ t.bitsRem ≠ s.bitsRem ∨ t.code ≠ s.code ∨ t.cmdReady ≠ s.cmdReady →
      (∃ v, i = .edge v) ∨ (i = .dispatch ∧ s.cmdReady = true) ∨
      (i = .tick ∧ s.armed = true ∧ s.cfg.threshold ≤ (s.elapsed + 1) % 2 ^ s.cfg.tw) ∨ i = .reset) ∧
    (t.armed ≠ s.armed ∨ t.ledOut ≠ s.ledOut →
      (i = .dispatch ∧ s.cmdReady = true ∧ s.code = s.cfg.target ∧ s.armed = false) ∨
      (i = .tick ∧ s.armed = true ∧ s.cfg.threshold ≤ (s.elapsed + 1) % 2 ^ s.cfg.tw) ∨ i = .reset) ∧
    (t.elapsed ≠ s.elapsed →
      (i = .dispatch ∧ s.cmdReady = true ∧ s.code = s.cfg.target ∧ s.armed = false) ∨
      (i = .tick ∧ s.armed = true) ∨ i = .reset)

/-! ## The cycle -/

/-- How a step runs what is decoded; the way of it is the model's choice. A step samples the word on the ports and moves
the inputs on: `nextCycle` drops the listed word (log 1) and counts the cycle (log 3), and changes no register and not the
configuration. It performs the operations that the word and `cmd_ready` select, each from the pre-state (`perform`,
log 10); where the cycle has one operation beside CLASSIFY, the step is `exec` of it. -/
def Obligations.StepRunsTheDecodedOperation : Prop :=
  (∀ (s : State) (ops : List Instr), s.cfg.Legal → decode s.cfg.iw s.cmdReady s.inputWord = .ok ops →
    step s = perform s.nextCycle s.nextCycle ops) ∧
  (∀ (s : State) (i : Instr) (e : Bool) (v : Nat), s.cfg.Legal →
    decode s.cfg.iw s.cmdReady s.inputWord = .ok [i, .classify e v] → step s = exec i s.nextCycle) ∧
  ∀ s : State, s.nextCycle = { s with stimulus := s.stimulus.drop 1, cycle := s.cycle + 1 }

/-- R86 (the spec's decision D8). For every state and every input word, the post-state of the step is the one that the
rule's equations give: `rst` overrides everything, the decode registers are reset by a DISPATCH or a timeout and else
written by a classified EDGE, and the actuation registers follow the chain timeout, match, counted tick. `tick_en` in the
next cycle is the new `armed`. -/
def Obligations.StepIsTheCycleRule : Prop :=
  ∀ (s : State) (ci : CycleInput), s.cfg.Legal → decodeWord s.cfg.iw s.inputWord = .ok ci →
    step s = .next (cycleRule s.nextCycle ci) ∧
    (cycleRule s.nextCycle ci).tickEn = (cycleRule s.nextCycle ci).armed

/-- 44_cycle.md R88 (derived there): the operations of a cycle, each reading the pre-state, may be performed in any order;
every order gives the post-state of the cycle rule. For every state, also one that no run reaches. How `perform` brings the
operations' writes together is the model's reading (log 10). -/
def Obligations.OperationsOfACycleCommute : Prop :=
  ∀ (s : State) (ci : CycleInput) (ops : List Instr), ops.Perm (ci.operations s.cmdReady) →
    perform s s ops = .next (cycleRule s ci)

/-- After 44_cycle.md R87 (derived there): no two operations of one cycle change a register to different values. It speaks of
changes: a write of the value a register already holds is seen as no write, which is the model's reading (log 10). A
register of one bit can change to one value only, so on those four it says nothing more; that the operations which write
them exclude each other, also where they write the value held, is OperationsOfACycleExcludeEachOther. -/
def Obligations.OperationsOfACycleNeverConflict : Prop :=
  ∀ (s a b : State) (ci : CycleInput) (i j : Instr), i ∈ ci.operations s.cmdReady → j ∈ ci.operations s.cmdReady →
    exec i s = .next a → exec j s = .next b →
    (a.startSeen ≠ s.startSeen → b.startSeen ≠ s.startSeen → a.startSeen = b.startSeen) ∧
    (a.bitsRem ≠ s.bitsRem → b.bitsRem ≠ s.bitsRem → a.bitsRem = b.bitsRem) ∧
    (a.code ≠ s.code → b.code ≠ s.code → a.code = b.code) ∧
    (a.cmdReady ≠ s.cmdReady → b.cmdReady ≠ s.cmdReady → a.cmdReady = b.cmdReady) ∧
    (a.armed ≠ s.armed → b.armed ≠ s.armed → a.armed = b.armed) ∧
    (a.elapsed ≠ s.elapsed → b.elapsed ≠ s.elapsed → a.elapsed = b.elapsed) ∧
    (a.ledOut ≠ s.ledOut → b.ledOut ≠ s.ledOut → a.ledOut = b.ledOut)

/-- 10_state.md R31 V8 and the end of 44_cycle.md R88 (both derived there): under the invariants, a cycle without `rst` is
one operation of the block, run alone, or changes no register. -/
def Obligations.AtMostOneOperationTakesEffect : Prop :=
  ∀ (s : State) (ci : CycleInput), s.Inv → s.cfg.Legal → decodeWord s.cfg.iw s.inputWord = .ok ci → ci.rst = false →
    s.atMostOneTakesEffect ci ∧
    ((s.edgeFires ci = true ∧ step s = exec (.edge ci.interval) s.nextCycle) ∨
      (s.dispatchFires = true ∧ step s = exec .dispatch s.nextCycle) ∨
      (s.tickCounted ci = true ∧ step s = exec .tick s.nextCycle) ∨
      (s.edgeFires ci = false ∧ s.dispatchFires = false ∧ s.tickCounted ci = false ∧ step s = exec .nop s.nextCycle))

/-! ## Configuration, refusal and progress -/

/-- R7 (the spec's decisions D5, D24). A step is refused for the configuration exactly where the configuration is illegal;
a `TARGET` with bit 7 set is legal. -/
def Obligations.IllegalConfigurationIsRefused : Prop :=
  ∀ s : State, step s = .refused .illegalConfiguration ↔
    ¬ (10 ≤ s.cfg.iw ∧ 1 ≤ s.cfg.tw ∧ 1 ≤ s.cfg.threshold ∧ s.cfg.threshold ≤ 2 ^ s.cfg.tw - 1)

/-- The model's choice (log 7): the decoder refuses a number that is no cycle input word by name, and so does the step
where one is listed. -/
def Obligations.TooWideStimulusIsRefused : Prop :=
  (∀ iw w : Nat, 2 ^ (iw + 3) ≤ w → decodeWord iw w = .error .notACycleInputWord) ∧
  ∀ (s : State) (w : Nat), s.cfg.Legal → 2 ^ (s.cfg.iw + 3) ≤ w →
    step (s.withInput w) = .refused .notACycleInputWord

/-- 44_cycle.md R92 and 10_state.md R32: in a legal configuration the IRD never halts. From every state in range any number
of cycles runs through and stays in range; the configuration is the same at the end. Two clauses are the model's choice:
that a listed stimulus must hold cycle input words only (log 1, log 7), and that cycles for which none is listed run on a
free word (log 2), of which the spec says nothing. -/
def Obligations.EveryNumberOfCyclesCompletes : Prop :=
  ∀ (n : Nat) (s : State), s.InRange → ∃ t, cycles n s = .next t ∧ t.InRange ∧ t.cfg = s.cfg

/-! ## Invariants -/

/-- 10_state.md R15, R31: the state after reset holds the invariants and is in range, and so does every state in a legal
configuration whose registers hold their reset values. (`code` and `led_out` at reset: R18, D10, log 11.) -/
def Obligations.InvariantsHoldAfterReset : Prop :=
  State.reset.IsResetState ∧ State.reset.Inv ∧ State.reset.InRange ∧
  ∀ s : State, s.cfg.Legal → s.IsResetState → s.Inv

/-- 10_state.md R31 (derived there): V1 to V7 hold after every step from a state in which they hold. -/
def Obligations.StepKeepsTheInvariants : Prop :=
  ∀ s t : State, s.Inv → step s = .next t → t.Inv

/-- 10_state.md R15, R27: every step keeps `elapsed` in `TW` bits, and the configuration as it is and legal. The third
range, that the listed stimulus holds cycle input words only, is about a field of the model's own: the model's choice
(log 1, log 7). -/
def Obligations.StepKeepsTheRanges : Prop :=
  ∀ s t : State, s.InRange → step s = .next t → t.InRange ∧ t.cfg = s.cfg

/-- 10_state.md R24, R25: the decode state machine moves only along its edges. From AwaitingStart to Sampling(7); from
Sampling(n) to Sampling(n - 1), or to Complete where `n = 1`; from Complete to AwaitingStart; and back to AwaitingStart
by RESET. -/
def Obligations.DecodeStateMovesAlongItsEdges : Prop :=
  ∀ (s t : State) (ci : CycleInput), s.Inv → decodeWord s.cfg.iw s.inputWord = .ok ci → step s = .next t →
    match s.decodeState with
    | .awaitingStart => t.decodeState = .awaitingStart ∨
        (t.decodeState = .sampling 7 ∧ ci.edgeValid = true ∧ rawClass ci.interval = .startBit)
    | .sampling n =>
        (ci.rst = true ∧ t.decodeState = .awaitingStart) ∨
        (ci.rst = false ∧ ci.edgeValid = false ∧ t.decodeState = .sampling n) ∨
        (ci.rst = false ∧ ci.edgeValid = true ∧ n ≠ 1 ∧ t.decodeState = .sampling (n - 1)) ∨
        (ci.rst = false ∧ ci.edgeValid = true ∧ n = 1 ∧ t.decodeState = .complete)
    | .complete => t.decodeState = .awaitingStart

/-! ## Who may turn the output on and off -/

/-- R75. A match arms: `led_out`, `elapsed` and `armed` are written with the decode reset, and ticks are counted from then
on; and no step turns `armed` or `led_out` on in any other way. -/
def Obligations.OnlyAMatchTurnsTheOutputOn : Prop :=
  (∀ s : State, s.cmdReady = true → s.code = s.cfg.target → s.armed = false →
    ∃ t, exec .dispatch s = .next t ∧ t.ledOut = true ∧ t.elapsed = 0 ∧ t.armed = true ∧ t.DecodeInitial ∧
      t.countsTicks = true) ∧
  ∀ s t : State, step s = .next t → (s.armed = false ∧ t.armed = true) ∨ (s.ledOut = false ∧ t.ledOut = true) →
    s.cmdReady = true ∧ s.code = s.cfg.target ∧ s.armed = false ∧ t.armed = true ∧ t.ledOut = true

/-- 10_state.md R20, 70_reset_and_hazards.md R114: only a RESET or the timeout turns the output off or disarms. -/
def Obligations.OnlyTimeoutOrResetTurnsTheOutputOff : Prop :=
  ∀ (s t : State) (ci : CycleInput), decodeWord s.cfg.iw s.inputWord = .ok ci → step s = .next t →
    (s.armed = true ∧ t.armed = false) ∨ (s.ledOut = true ∧ t.ledOut = false) →
    ci.rst = true ∨
      (ci.tick = true ∧ s.armed = true ∧ s.cfg.threshold ≤ (s.elapsed + 1) % 2 ^ s.cfg.tw ∧ t.IsResetState)

/-- 10_state.md R19: a command becomes pending only by the EDGE that samples the seventh bit, while listening. -/
def Obligations.CommandBecomesPendingOnlyOnTheLastBit : Prop :=
  ∀ (s t : State) (ci : CycleInput), decodeWord s.cfg.iw s.inputWord = .ok ci → step s = .next t →
    s.cmdReady = false → t.cmdReady = true →
    ci.rst = false ∧ ci.edgeValid = true ∧ s.armed = false ∧ s.startSeen = true ∧ s.bitsRem = 1 ∧ t.bitsRem = 0

/-- 42_dispatch.md R78 (derived there): with bit 7 of `TARGET` set the output never turns on, for any inputs and any
number of cycles. -/
def Obligations.HighTargetNeverLightsTheOutput : Prop :=
  ∀ (n : Nat) (s t : State), s.Inv → s.cfg.target.getLsbD 7 = true → s.ledOut = false → cycles n s = .next t →
    t.ledOut = false

/-! ## What the block cannot tell apart -/

/-- R53 (the spec's decision D18). Every cycle input word has a next state, and the bits that the selected operations do
not read are don't-care: everything but `rst` where `rst = 1`, and the interval where `edge_valid = 0`. -/
def Obligations.UnreadInputBitsAreDontCare : Prop :=
  ∀ (s : State) (v w : Nat), s.cfg.Legal → v < 2 ^ (s.cfg.iw + 3) → w < 2 ^ (s.cfg.iw + 3) →
    (∃ t, step (s.withInput w) = .next t) ∧
    (v.testBit (s.cfg.iw + 2) = true → w.testBit (s.cfg.iw + 2) = true → step (s.withInput v) = step (s.withInput w)) ∧
    (v.testBit s.cfg.iw = false → w.testBit s.cfg.iw = false → v / 2 ^ s.cfg.iw = w / 2 ^ s.cfg.iw →
      step (s.withInput v) = step (s.withInput w))

/-- 70_reset_and_hazards.md R113 (derived there) and R114: in the dispatch cycle and in the armed window the block is
blind to edges; two words that differ in `edge_valid` and `interval` only give the same step. -/
def Obligations.EdgesAreInvisibleWhileNotListening : Prop :=
  ∀ (s : State) (v w : Nat), s.cfg.Legal → s.listening = false → v < 2 ^ (s.cfg.iw + 3) → w < 2 ^ (s.cfg.iw + 3) →
    v.testBit (s.cfg.iw + 2) = w.testBit (s.cfg.iw + 2) → v.testBit (s.cfg.iw + 1) = w.testBit (s.cfg.iw + 1) →
    step (s.withInput v) = step (s.withInput w)

/-- 40_classifier.md R61: of an interval only its band counts. Two words whose inputs differ in an interval of the same raw
classification give the same step. -/
def Obligations.OnlyTheBandOfAnIntervalMatters : Prop :=
  ∀ (s : State) (a b : CycleInput), s.cfg.Legal → a.interval < 2 ^ s.cfg.iw → b.interval < 2 ^ s.cfg.iw →
    a.rst = b.rst → a.tick = b.tick → a.edgeValid = b.edgeValid → rawClass a.interval = rawClass b.interval →
    step (s.withInput (a.word s.cfg.iw)) = step (s.withInput (b.word s.cfg.iw))

/-! ## Runs -/

/-- 43_timer.md R82, R84 (derived there). While armed, ticks are counted and nothing else is: after any inputs without
`rst` that bring fewer than the missing ticks, the output is still on and `elapsed` has grown by the ticks alone; and the
tick that makes `THRESHOLD` of them leaves `ResetState`. That a run's inputs are listed words is the model's choice
(log 1). -/
def Obligations.OutputWindowIsExact : Prop :=
  ∀ (s : State) (ws rest : List Nat), s.cfg.Legal → s.Inv → s.armed = true → s.stimulus = ws ++ rest →
    (∀ w ∈ ws, NoReset s.cfg.iw w) → s.elapsed + tickCount s.cfg.iw ws < s.cfg.threshold →
    (∃ t, cycles ws.length s = .next t ∧ t.stimulus = rest ∧ t.cfg = s.cfg ∧ t.armed = true ∧ t.ledOut = true ∧
      t.elapsed = s.elapsed + tickCount s.cfg.iw ws ∧ t.DecodeInitial) ∧
    ∀ (w : Nat) (rest' : List Nat), rest = w :: rest' → NoReset s.cfg.iw w → w.testBit (s.cfg.iw + 1) = true →
      s.elapsed + tickCount s.cfg.iw ws + 1 = s.cfg.threshold →
      ∃ u, cycles (ws.length + 1) s = .next u ∧ u.IsResetState ∧ u.stimulus = rest'

/-- 41_accumulator.md R68, R69 and the remark on a shift register (90_conflicts.md C4, derived there). From AwaitingStart
while not armed, take any inputs without `rst` whose edges are: some that are in no start band, one in the start band,
and six more; one further edge then completes the command, and `code` is what a shift register makes of the seven bit
intervals, the first the most significant. Ticks and idle cycles in between change nothing. That a run's inputs are listed
words is the model's choice (log 1). -/
def Obligations.SevenIntervalsMakeTheCommand : Prop :=
  ∀ (s : State) (us rest noise vs : List Nat) (w start : Nat), s.cfg.Legal → s.DecodeInitial → s.armed = false →
    s.stimulus = us ++ w :: rest → (∀ u ∈ us, NoReset s.cfg.iw u) → NoReset s.cfg.iw w →
    edgeIntervals s.cfg.iw us = noise ++ start :: vs → (∀ v ∈ noise, ¬ (740 < v ∧ v < 760)) → 740 < start → start < 760 →
    vs.length = 6 → w.testBit s.cfg.iw = true →
    ∃ t, cycles (us.length + 1) s = .next t ∧ t.stimulus = rest ∧ t.cfg = s.cfg ∧ t.startSeen = true ∧ t.bitsRem = 0 ∧
      t.cmdReady = true ∧ t.code = shiftedCode (vs ++ [w % 2 ^ s.cfg.iw]) ∧ t.armed = false ∧ t.elapsed = s.elapsed ∧
      t.ledOut = s.ledOut

/-- 30_encoding.md R59: `FRAME c`, presented to a decoder at `Initial` that is not armed, leaves `code = c` for the
dispatch, for each of the 128 commands and every legal configuration. That the frame's words are listed in the state is
the model's choice (log 1). -/
def Obligations.FrameDeliversItsCommand : Prop :=
  ∀ (s : State) (c : BitVec 7) (rest : List Nat), s.cfg.Legal → s.DecodeInitial → s.armed = false →
    s.stimulus = stimulusWords s.cfg.iw (PseudoStatement.frame c).expand ++ rest →
    ∃ t, cycles 8 s = .next t ∧ t.stimulus = rest ∧ t.cfg = s.cfg ∧ t.decodeState = .complete ∧ t.code = c.setWidth 8 ∧
      t.armed = false ∧ t.elapsed = s.elapsed ∧ t.ledOut = s.ledOut

/-- 41_accumulator.md R73: there is no decode watchdog. In Sampling(n), any number of cycles without an edge and without
`rst`, with or without ticks, leaves every register as it was. That the cycles' words are listed in the state and dropped,
and that the cycles are counted, is the model's choice (log 1, log 3). -/
def Obligations.StalledFrameStays : Prop :=
  ∀ (s : State) (ws rest : List Nat), s.cfg.Legal → s.listening = true → s.startSeen = true →
    s.stimulus = ws ++ rest → (∀ w ∈ ws, NoReset s.cfg.iw w ∧ w.testBit s.cfg.iw = false) →
    cycles ws.length s = .next { s with stimulus := rest, cycle := s.cycle + ws.length }

/-! ## The exclusions of one cycle -/

/-- 44_cycle.md R87 (derived there), by the guards of R86, in every state, also one that no run reaches. `edge_fire` excludes
`dispatch_fire` and `tick_counted`: DISPATCH is not selected and a TICK changes nothing. `dispatch_fire` or `tick_counted`
leaves an EDGE without effect. `match` excludes `tick_counted`, and with it `timeout_fire`: a TICK changes nothing. Beside a
counted tick a DISPATCH does not touch the actuation registers, so `armed <- 1` never stands beside `armed <- 0`. And
`dispatch_fire` and `timeout_fire` hold together only with `cmd_ready = 1` and `armed = 1`, which breaks V4; there both
leave `Initial`. -/
def Obligations.OperationsOfACycleExcludeEachOther : Prop :=
  ∀ (s : State) (ci : CycleInput),
    (s.edgeFires ci = true → s.dispatchFires = false ∧ Instr.dispatch ∉ ci.operations s.cmdReady ∧
      s.tickCounted ci = false ∧ exec .tick s = .next s) ∧
    (s.dispatchFires = true ∨ s.tickCounted ci = true → s.edgeFires ci = false ∧ ∀ v, exec (.edge v) s = .next s) ∧
    (s.matchFires = true → s.tickCounted ci = false ∧ s.timeoutFires ci = false ∧ exec .tick s = .next s) ∧
    (s.dispatchFires = true → s.tickCounted ci = true → s.matchFires = false ∧
      ∃ t, exec .dispatch s = .next t ∧ t.armed = s.armed ∧ t.elapsed = s.elapsed ∧ t.ledOut = s.ledOut) ∧
    (s.dispatchFires = true → s.timeoutFires ci = true → s.cmdReady = true ∧ s.armed = true ∧ ¬ s.V4 ∧
      ∃ a b, exec .dispatch s = .next a ∧ exec .tick s = .next b ∧ a.DecodeInitial ∧ b.DecodeInitial)
end

