-- ==== Sys2Proof/Laws/Decode.lean ====
section
/-!
SUPPORT. The decoder's cases, and the bits of the encoder's words.
-/

namespace Sys2Proof

/-- What the decoder answers for a cycle input word (R51). -/
theorem decodeWord_of_lt {iw w : Nat} (h : w < 2 ^ (iw + 3)) :
    decodeWord iw w = .ok
      { rst := w.testBit (iw + 2), tick := w.testBit (iw + 1), edgeValid := w.testBit iw, interval := w % 2 ^ iw } := by
  simp [decodeWord, h]

/-- The decoder refuses exactly the numbers that are too wide. -/
theorem decodeWord_of_ge {iw w : Nat} (h : 2 ^ (iw + 3) ≤ w) : decodeWord iw w = .error .notACycleInputWord := by
  simp [decodeWord, Nat.not_lt.mpr h]

/-- What a decoded word says of its bits. -/
theorem decodeWord_ok {iw w : Nat} {ci : CycleInput} (h : decodeWord iw w = .ok ci) :
    w < 2 ^ (iw + 3) ∧ ci.rst = w.testBit (iw + 2) ∧ ci.tick = w.testBit (iw + 1) ∧ ci.edgeValid = w.testBit iw ∧
      ci.interval = w % 2 ^ iw := by
  unfold decodeWord at h
  split at h
  · injection h with h
    subst h
    exact ⟨by assumption, rfl, rfl, rfl, rfl⟩
  · cases h

theorem decode_of_decodeWord {iw w : Nat} {ci : CycleInput} (d : Bool) (h : decodeWord iw w = .ok ci) :
    decode iw d w = .ok (ci.operations d) := by
  simp [decode, h]

/-- The bits of a packed word (R51). -/
theorem testBit_word (iw : Nat) (ci : CycleInput) (k : Nat) :
    (ci.word iw).testBit k =
      (decide (iw + 2 ≤ k) && ci.rst.toNat.testBit (k - (iw + 2)) ||
        decide (iw + 1 ≤ k) && ci.tick.toNat.testBit (k - (iw + 1)) ||
        decide (iw ≤ k) && ci.edgeValid.toNat.testBit (k - iw) || ci.interval.testBit k) := by
  simp [CycleInput.word, Nat.testBit_or, Nat.testBit_shiftLeft]

/-- A packed word has `IW + 3` bits (R51). -/
theorem word_lt {iw : Nat} {ci : CycleInput} (h : ci.interval < 2 ^ iw) : ci.word iw < 2 ^ (iw + 3) := by
  have hb (b : Bool) : b.toNat < 2 ^ 1 := by cases b <;> simp
  have hs (b : Bool) (k : Nat) (hk : k ≤ 2) : b.toNat <<< (iw + k) < 2 ^ (iw + 3) := by
    rw [Nat.shiftLeft_eq]
    calc b.toNat * 2 ^ (iw + k) < 2 ^ 1 * 2 ^ (iw + k) := Nat.mul_lt_mul_of_pos_right (hb b) (by positivity)
      _ = 2 ^ (1 + (iw + k)) := (pow_add 2 1 (iw + k)).symm
      _ ≤ 2 ^ (iw + 3) := Nat.pow_le_pow_right (by omega) (by omega)
  have hi : ci.interval < 2 ^ (iw + 3) := lt_of_lt_of_le h (Nat.pow_le_pow_right (by omega) (by omega))
  exact Nat.or_lt_two_pow (Nat.or_lt_two_pow (Nat.or_lt_two_pow (hs _ 2 (by omega)) (hs _ 1 (by omega)))
    (hs _ 0 (by omega))) hi

end Sys2Proof
end

