-- ==== Sys2Proof/Laws/State.lean ====
section
/-!
SUPPORT. What each register update leaves in each field of the state: one lemma per field per update.
-/

namespace Sys2Proof.Machine

variable (s : State)

/-! ## The decode reset (R30) -/

@[simp] theorem State.decodeReset_cfg : s.decodeReset.cfg = s.cfg := rfl
@[simp] theorem State.decodeReset_startSeen : s.decodeReset.startSeen = false := rfl
@[simp] theorem State.decodeReset_bitsRem : s.decodeReset.bitsRem = 7 := rfl
@[simp] theorem State.decodeReset_code : s.decodeReset.code = 0x00 := rfl
@[simp] theorem State.decodeReset_cmdReady : s.decodeReset.cmdReady = false := rfl
@[simp] theorem State.decodeReset_armed : s.decodeReset.armed = s.armed := rfl
@[simp] theorem State.decodeReset_elapsed : s.decodeReset.elapsed = s.elapsed := rfl
@[simp] theorem State.decodeReset_ledOut : s.decodeReset.ledOut = s.ledOut := rfl
@[simp] theorem State.decodeReset_stimulus : s.decodeReset.stimulus = s.stimulus := rfl
@[simp] theorem State.decodeReset_cycle : s.decodeReset.cycle = s.cycle := rfl

/-! ## The actuation registers at `Idle` (R30) -/

@[simp] theorem State.disarm_cfg : s.disarm.cfg = s.cfg := rfl
@[simp] theorem State.disarm_startSeen : s.disarm.startSeen = s.startSeen := rfl
@[simp] theorem State.disarm_bitsRem : s.disarm.bitsRem = s.bitsRem := rfl
@[simp] theorem State.disarm_code : s.disarm.code = s.code := rfl
@[simp] theorem State.disarm_cmdReady : s.disarm.cmdReady = s.cmdReady := rfl
@[simp] theorem State.disarm_armed : s.disarm.armed = false := rfl
@[simp] theorem State.disarm_elapsed : s.disarm.elapsed = 0 := rfl
@[simp] theorem State.disarm_ledOut : s.disarm.ledOut = false := rfl
@[simp] theorem State.disarm_stimulus : s.disarm.stimulus = s.stimulus := rfl
@[simp] theorem State.disarm_cycle : s.disarm.cycle = s.cycle := rfl

/-! ## The full reset (R83, R107) -/

@[simp] theorem State.fullReset_cfg : s.fullReset.cfg = s.cfg := rfl
@[simp] theorem State.fullReset_startSeen : s.fullReset.startSeen = false := rfl
@[simp] theorem State.fullReset_bitsRem : s.fullReset.bitsRem = 7 := rfl
@[simp] theorem State.fullReset_code : s.fullReset.code = 0x00 := rfl
@[simp] theorem State.fullReset_cmdReady : s.fullReset.cmdReady = false := rfl
@[simp] theorem State.fullReset_armed : s.fullReset.armed = false := rfl
@[simp] theorem State.fullReset_elapsed : s.fullReset.elapsed = 0 := rfl
@[simp] theorem State.fullReset_ledOut : s.fullReset.ledOut = false := rfl
@[simp] theorem State.fullReset_stimulus : s.fullReset.stimulus = s.stimulus := rfl
@[simp] theorem State.fullReset_cycle : s.fullReset.cycle = s.cycle := rfl

/-! ## A match (R75) -/

@[simp] theorem State.arm_cfg : s.arm.cfg = s.cfg := rfl
@[simp] theorem State.arm_startSeen : s.arm.startSeen = s.startSeen := rfl
@[simp] theorem State.arm_bitsRem : s.arm.bitsRem = s.bitsRem := rfl
@[simp] theorem State.arm_code : s.arm.code = s.code := rfl
@[simp] theorem State.arm_cmdReady : s.arm.cmdReady = s.cmdReady := rfl
@[simp] theorem State.arm_armed : s.arm.armed = true := rfl
@[simp] theorem State.arm_elapsed : s.arm.elapsed = 0 := rfl
@[simp] theorem State.arm_ledOut : s.arm.ledOut = true := rfl
@[simp] theorem State.arm_stimulus : s.arm.stimulus = s.stimulus := rfl
@[simp] theorem State.arm_cycle : s.arm.cycle = s.cycle := rfl

/-! ## A start accept (R68) -/

@[simp] theorem State.acceptStart_cfg : s.acceptStart.cfg = s.cfg := rfl
@[simp] theorem State.acceptStart_startSeen : s.acceptStart.startSeen = true := rfl
@[simp] theorem State.acceptStart_bitsRem : s.acceptStart.bitsRem = 7 := rfl
@[simp] theorem State.acceptStart_code : s.acceptStart.code = s.code := rfl
@[simp] theorem State.acceptStart_cmdReady : s.acceptStart.cmdReady = s.cmdReady := rfl
@[simp] theorem State.acceptStart_armed : s.acceptStart.armed = s.armed := rfl
@[simp] theorem State.acceptStart_elapsed : s.acceptStart.elapsed = s.elapsed := rfl
@[simp] theorem State.acceptStart_ledOut : s.acceptStart.ledOut = s.ledOut := rfl
@[simp] theorem State.acceptStart_stimulus : s.acceptStart.stimulus = s.stimulus := rfl
@[simp] theorem State.acceptStart_cycle : s.acceptStart.cycle = s.cycle := rfl

/-! ## A sampled bit (R69, R70) -/

@[simp] theorem State.sampleBit_cfg (b : Bool) : (s.sampleBit b).cfg = s.cfg := rfl
@[simp] theorem State.sampleBit_startSeen (b : Bool) : (s.sampleBit b).startSeen = s.startSeen := rfl
@[simp] theorem State.sampleBit_bitsRem (b : Bool) : (s.sampleBit b).bitsRem = s.bitsRem - 1 := rfl
@[simp] theorem State.sampleBit_code (b : Bool) : (s.sampleBit b).code = if b then s.code ||| sampleMask s.bitsRem else s.code := rfl
@[simp] theorem State.sampleBit_cmdReady (b : Bool) : (s.sampleBit b).cmdReady = if lastBit s.bitsRem then true else s.cmdReady := rfl
@[simp] theorem State.sampleBit_armed (b : Bool) : (s.sampleBit b).armed = s.armed := rfl
@[simp] theorem State.sampleBit_elapsed (b : Bool) : (s.sampleBit b).elapsed = s.elapsed := rfl
@[simp] theorem State.sampleBit_ledOut (b : Bool) : (s.sampleBit b).ledOut = s.ledOut := rfl
@[simp] theorem State.sampleBit_stimulus (b : Bool) : (s.sampleBit b).stimulus = s.stimulus := rfl
@[simp] theorem State.sampleBit_cycle (b : Bool) : (s.sampleBit b).cycle = s.cycle := rfl

/-! ## A counted tick (R82) -/

@[simp] theorem State.countTick_cfg : s.countTick.cfg = s.cfg := rfl
@[simp] theorem State.countTick_startSeen : s.countTick.startSeen = s.startSeen := rfl
@[simp] theorem State.countTick_bitsRem : s.countTick.bitsRem = s.bitsRem := rfl
@[simp] theorem State.countTick_code : s.countTick.code = s.code := rfl
@[simp] theorem State.countTick_cmdReady : s.countTick.cmdReady = s.cmdReady := rfl
@[simp] theorem State.countTick_armed : s.countTick.armed = s.armed := rfl
@[simp] theorem State.countTick_elapsed : s.countTick.elapsed = elapsedNext s := rfl
@[simp] theorem State.countTick_ledOut : s.countTick.ledOut = s.ledOut := rfl
@[simp] theorem State.countTick_stimulus : s.countTick.stimulus = s.stimulus := rfl
@[simp] theorem State.countTick_cycle : s.countTick.cycle = s.cycle := rfl

/-! ## The next cycle's inputs (R38) -/

@[simp] theorem State.nextCycle_cfg : s.nextCycle.cfg = s.cfg := rfl
@[simp] theorem State.nextCycle_startSeen : s.nextCycle.startSeen = s.startSeen := rfl
@[simp] theorem State.nextCycle_bitsRem : s.nextCycle.bitsRem = s.bitsRem := rfl
@[simp] theorem State.nextCycle_code : s.nextCycle.code = s.code := rfl
@[simp] theorem State.nextCycle_cmdReady : s.nextCycle.cmdReady = s.cmdReady := rfl
@[simp] theorem State.nextCycle_armed : s.nextCycle.armed = s.armed := rfl
@[simp] theorem State.nextCycle_elapsed : s.nextCycle.elapsed = s.elapsed := rfl
@[simp] theorem State.nextCycle_ledOut : s.nextCycle.ledOut = s.ledOut := rfl
@[simp] theorem State.nextCycle_stimulus : s.nextCycle.stimulus = s.stimulus.drop 1 := rfl
@[simp] theorem State.nextCycle_cycle : s.nextCycle.cycle = s.cycle + 1 := rfl

/-! ## A word put on the ports (R51) -/

@[simp] theorem State.withInput_cfg (w : Nat) : (s.withInput w).cfg = s.cfg := rfl
@[simp] theorem State.withInput_startSeen (w : Nat) : (s.withInput w).startSeen = s.startSeen := rfl
@[simp] theorem State.withInput_bitsRem (w : Nat) : (s.withInput w).bitsRem = s.bitsRem := rfl
@[simp] theorem State.withInput_code (w : Nat) : (s.withInput w).code = s.code := rfl
@[simp] theorem State.withInput_cmdReady (w : Nat) : (s.withInput w).cmdReady = s.cmdReady := rfl
@[simp] theorem State.withInput_armed (w : Nat) : (s.withInput w).armed = s.armed := rfl
@[simp] theorem State.withInput_elapsed (w : Nat) : (s.withInput w).elapsed = s.elapsed := rfl
@[simp] theorem State.withInput_ledOut (w : Nat) : (s.withInput w).ledOut = s.ledOut := rfl
@[simp] theorem State.withInput_stimulus (w : Nat) : (s.withInput w).stimulus = w :: s.stimulus.drop 1 := rfl
@[simp] theorem State.withInput_cycle (w : Nat) : (s.withInput w).cycle = s.cycle := rfl

/-! ## The writes of an operation brought into a cycle (R10, R88) -/

@[simp] theorem State.commit_cfg (pre post acc : State) :
    (pre.commit post acc).cfg = acc.cfg := rfl
@[simp] theorem State.commit_startSeen (pre post acc : State) :
    (pre.commit post acc).startSeen = writeOver pre.startSeen post.startSeen acc.startSeen := rfl
@[simp] theorem State.commit_bitsRem (pre post acc : State) :
    (pre.commit post acc).bitsRem = writeOver pre.bitsRem post.bitsRem acc.bitsRem := rfl
@[simp] theorem State.commit_code (pre post acc : State) :
    (pre.commit post acc).code = writeOver pre.code post.code acc.code := rfl
@[simp] theorem State.commit_cmdReady (pre post acc : State) :
    (pre.commit post acc).cmdReady = writeOver pre.cmdReady post.cmdReady acc.cmdReady := rfl
@[simp] theorem State.commit_armed (pre post acc : State) :
    (pre.commit post acc).armed = writeOver pre.armed post.armed acc.armed := rfl
@[simp] theorem State.commit_elapsed (pre post acc : State) :
    (pre.commit post acc).elapsed = writeOver pre.elapsed post.elapsed acc.elapsed := rfl
@[simp] theorem State.commit_ledOut (pre post acc : State) :
    (pre.commit post acc).ledOut = writeOver pre.ledOut post.ledOut acc.ledOut := rfl
@[simp] theorem State.commit_stimulus (pre post acc : State) :
    (pre.commit post acc).stimulus = acc.stimulus := rfl
@[simp] theorem State.commit_cycle (pre post acc : State) :
    (pre.commit post acc).cycle = acc.cycle := rfl

end Sys2Proof.Machine
end

