-- ==== Sys2Proof/Laws/Ops.lean ====
section
/-!
SUPPORT. One lemma for each shared operation, which says once what it can do: the guards as propositions, the outcomes
of the operations, and how an operation's writes come into a cycle.
-/

namespace Sys2Proof.Machine

/-! ## Guards and combinational values -/

theorem inBand_iff (lo hi v : Nat) : inBand lo hi v = true ↔ lo < v ∧ v < hi := by
  simp [inBand]

theorem isStart_iff (v : Nat) : isStart v = true ↔ 740 < v ∧ v < 760 := inBand_iff _ _ v

theorem isOne_iff (v : Nat) : isOne v = true ↔ 440 < v ∧ v < 460 := inBand_iff _ _ v

theorem listening_iff (s : State) : s.listening = true ↔ s.cmdReady = false ∧ s.armed = false := by
  simp [State.listening]

theorem codeMatches_iff (s : State) : s.codeMatches = true ↔ s.code = s.cfg.target ∧ s.armed = false := by
  simp [State.codeMatches]

theorem reachesThreshold_iff (s : State) :
    s.reachesThreshold = true ↔ s.cfg.threshold ≤ (s.elapsed + 1) % 2 ^ s.cfg.tw := by
  simp only [State.reachesThreshold, decide_eq_true_iff]
  exact Iff.rfl

/-- The bit that makes `bits_rem` 0 is the one sampled at 1 (R70). -/
theorem lastBit_iff (n : BitCount) : lastBit n = true ↔ n = 1 := by
  revert n
  decide

/-- Within the threshold the increment does not wrap (R85's remark, R7). -/
theorem elapsedNext_of_below {s : State} (hc : s.cfg.Legal) (h : s.elapsed < s.cfg.threshold) :
    elapsedNext s = s.elapsed + 1 := by
  obtain ⟨-, -, -, ht⟩ := hc
  exact Nat.mod_eq_of_lt (by omega)

/-- What the classifier passes on (R63): `Ignore` where the gate is shut, else the band's classification. -/
theorem classify_cases (s : State) (e : Bool) (v : Nat) :
    (classify s e v = .ignore ∧ (e = false ∨ s.cmdReady = true ∨ s.armed = true)) ∨
      (classify s e v = rawClass v ∧ e = true ∧ s.cmdReady = false ∧ s.armed = false) := by
  cases e <;> cases hr : s.cmdReady <;> cases ha : s.armed <;> simp [classify, State.listening, hr, ha]

theorem rawClass_ne_ignore (v : Nat) : rawClass v ≠ .ignore := by
  unfold rawClass
  split
  · simp
  · split <;> simp

theorem rawClass_eq_startBit (v : Nat) : rawClass v = .startBit ↔ 740 < v ∧ v < 760 := by
  rw [← isStart_iff]
  unfold rawClass
  cases isStart v <;> cases isOne v <;> simp

/-- The two bands are disjoint (R60), so a One is an interval in the One band. -/
theorem rawClass_eq_one (v : Nat) : rawClass v = .one ↔ 440 < v ∧ v < 460 := by
  rw [← isOne_iff]
  unfold rawClass
  cases hs : isStart v <;> cases ho : isOne v <;> simp
  have h1 := (isStart_iff v).mp hs
  have h2 := (isOne_iff v).mp ho
  omega

/-! ## The accumulator's step -/

/-- What an EDGE can do (R66): nothing, a start accept, or a sampled bit. -/
theorem edgeOn_cases (c : Classification) (s : State) :
    edgeOn c s = s ∨
      (edgeOn c s = s.acceptStart ∧ c = .startBit ∧ s.startSeen = false) ∨
      (edgeOn c s = s.sampleBit (decide (c = .one)) ∧ c ≠ .ignore ∧ s.startSeen = true ∧ s.bitsRem ≠ 0) := by
  unfold edgeOn
  split
  · exact .inl rfl
  · rename_i hc
    split
    · rename_i hs
      split
      · rename_i hb
        exact .inr (.inl ⟨rfl, hb, hs⟩)
      · exact .inl rfl
    · rename_i hs
      split
      · exact .inl rfl
      · rename_i hb
        exact .inr (.inr ⟨rfl, hc, by simpa using hs, hb⟩)

@[simp] theorem edgeOn_ignore (s : State) : edgeOn .ignore s = s := rfl

/-! ## Operations -/

/-- What EDGE answers (R66, R67). -/
theorem exec_edge (v : Nat) (s : State) :
    exec (.edge v) s = .next (if s.listening then edgeOn (rawClass v) s else s) := by
  simp only [exec, execEdge, classify, if_true]
  split <;> simp

/-- What TICK answers, over the shared writes (R80). -/
theorem exec_tick (s : State) :
    exec .tick s = .next (if s.armed then (if s.reachesThreshold then s.fullReset else s.countTick) else s) := rfl

/-- What DISPATCH answers, over the shared writes, selected or not (R74, log 8). -/
theorem exec_dispatch (s : State) :
    exec .dispatch s =
      .next (if s.cmdReady then (if s.codeMatches then s.arm.decodeReset else s.decodeReset) else s) := by
  cases h : s.cmdReady <;> simp [exec, execDispatch, State.dispatchFires, h]

/-- Every operation completes, and writes registers only. -/
theorem exec_next (i : Instr) (s : State) : ∃ t, exec i s = .next t ∧ s.SameOutside t := by
  cases i with
  | reset => exact ⟨_, rfl, rfl, rfl, rfl⟩
  | edge v =>
    refine ⟨_, rfl, ?_⟩
    rcases edgeOn_cases (classify s true v) s with h | ⟨h, -⟩ | ⟨h, -⟩ <;> rw [h] <;> exact ⟨rfl, rfl, rfl⟩
  | tick =>
    refine ⟨_, rfl, ?_⟩
    split
    · split <;> exact ⟨rfl, rfl, rfl⟩
    · exact ⟨rfl, rfl, rfl⟩
  | dispatch =>
    simp only [exec, execDispatch]
    split
    · refine ⟨_, rfl, ?_⟩
      split <;> exact ⟨rfl, rfl, rfl⟩
    · exact ⟨_, rfl, rfl, rfl, rfl⟩
  | nop => exact ⟨_, rfl, rfl, rfl, rfl⟩
  | classify e v => exact ⟨_, rfl, rfl, rfl, rfl⟩

/-! ## Writes brought into a cycle -/

@[simp] theorem writeOver_self {α : Type} [DecidableEq α] (old new : α) : writeOver old new old = new := by
  unfold writeOver
  split
  · rename_i h
    exact h.symm
  · rfl

@[simp] theorem writeOver_same {α : Type} [DecidableEq α] (old sofar : α) : writeOver old old sofar = sofar := by
  simp [writeOver]

/-- An operation that changes nothing adds no write. -/
@[simp] theorem commit_unchanged (pre acc : State) : pre.commit pre acc = acc := by
  cases acc
  simp [State.commit]

/-- The first operation's writes give its own post-state. -/
theorem commit_first {pre post : State} (h : pre.SameOutside post) : pre.commit post pre = post := by
  obtain ⟨h1, h2, h3⟩ := h
  cases pre
  cases post
  simp_all [State.commit]

@[simp] theorem perform_nil (pre acc : State) : perform pre acc [] = .next acc := rfl

/-- One operation of a cycle, by its outcome. -/
theorem perform_cons {pre acc post : State} {i : Instr} {rest : List Instr} (h : exec i pre = .next post) :
    perform pre acc (i :: rest) = perform pre (pre.commit post acc) rest := by
  simp [perform, h]

/-- CLASSIFY adds nothing to a cycle (R64). -/
@[simp] theorem perform_classify (pre acc : State) (e : Bool) (v : Nat) (rest : List Instr) :
    perform pre acc (.classify e v :: rest) = perform pre acc rest := by
  rw [perform_cons (post := pre) rfl, commit_unchanged]

/-- A cycle of one operation beside CLASSIFY ends in that operation's post-state. -/
theorem perform_single {s a : State} {i : Instr} (e : Bool) (v : Nat) (h : exec i s = .next a) :
    perform s s [i, .classify e v] = .next a := by
  obtain ⟨t, ht, hs⟩ := exec_next i s
  rw [h] at ht
  cases ht
  rw [perform_cons h, commit_first hs, perform_classify, perform_nil]

/-! ## The cycle's input -/

@[simp] theorem inputWord_withInput (s : State) (w : Nat) : (s.withInput w).inputWord = w := rfl

theorem inputWord_of_stimulus {s : State} {w : Nat} {ws : List Nat} (h : s.stimulus = w :: ws) : s.inputWord = w := by
  simp [State.inputWord, h]

/-- A stimulus that fits gives a cycle input word in every cycle. -/
theorem inputWord_lt {s : State} (h : s.StimulusFits) : s.inputWord < 2 ^ (s.cfg.iw + 3) := by
  unfold State.inputWord
  split
  · rename_i w ws hw
    exact h w (by simp [hw])
  · exact Nat.mod_lt _ (by positivity)

theorem runCycle_of_decode {s : State} {w : Nat} {ops : List Instr} (h : decode s.cfg.iw s.cmdReady w = .ok ops) :
    runCycle s w = perform s s ops := by
  simp [runCycle, h]

theorem step_of_legal {s : State} (h : s.cfg.Legal) : step s = runCycle s.nextCycle s.inputWord := by
  simp only [step, if_pos h]

/-- A step that answers a next state ran in a legal configuration. -/
theorem legal_of_step {s t : State} (h : step s = .next t) : s.cfg.Legal := by
  by_contra hc
  simp [step, if_neg hc] at h

/-- What a step that answers a next state has done: it performed the operations of the decoded word, all from the state
with the inputs moved on. -/
theorem step_next {s t : State} (h : step s = .next t) :
    s.cfg.Legal ∧ ∃ ci, decodeWord s.cfg.iw s.inputWord = .ok ci ∧
      perform s.nextCycle s.nextCycle (ci.operations s.cmdReady) = .next t := by
  have hl := legal_of_step h
  refine ⟨hl, ?_⟩
  rw [step_of_legal hl] at h
  cases hd : decodeWord s.cfg.iw s.inputWord with
  | ok ci => exact ⟨ci, rfl, by rw [← h, runCycle_of_decode (s := s.nextCycle) (decode_of_decodeWord _ hd)]; rfl⟩
  | error e =>
    have he : decode s.nextCycle.cfg.iw s.nextCycle.cmdReady s.inputWord = .error .notACycleInputWord := by
      cases e
      simp [decode, hd]
    unfold runCycle at h
    rw [he] at h
    cases h

theorem cycles_zero (s : State) : cycles 0 s = .next s := rfl

theorem cycles_succ {n : Nat} {s t : State} (h : step s = .next t) : cycles (n + 1) s = cycles n t := by
  simp [cycles, h]

end Sys2Proof.Machine
end

