-- ==== Sys2Proof/Laws/PerInstr.lean ====
section
/-!
SUPPORT. The family of statements made for each operation: its encoded word fits the ports.
-/

namespace Sys2Proof.Laws.EncodedWordFits

/-- The word of a well-formed operation has `IW + 3` bits (30_encoding.md R51). -/
def Statement (i : Instr) : Prop := ∀ c : Config, i.WellFormed c → encode c.iw i < 2 ^ (c.iw + 3)

theorem reset : Statement .reset := fun c _ => word_lt (Nat.two_pow_pos c.iw)

theorem edge (interval : Nat) : Statement (.edge interval) := fun _ h => word_lt h

theorem tick : Statement .tick := fun c _ => word_lt (Nat.two_pow_pos c.iw)

theorem dispatch : Statement .dispatch := fun c _ => word_lt (Nat.two_pow_pos c.iw)

theorem nop : Statement .nop := fun c _ => word_lt (Nat.two_pow_pos c.iw)

theorem classify (edgeValid : Bool) (interval : Nat) : Statement (.classify edgeValid interval) := fun _ h => word_lt h

end Sys2Proof.Laws.EncodedWordFits
end

