-- ==== Sys2Proof/Tests/Slice0.lean ====
section
/-!
SUPPORT. The model's own tests: the ill-formed terms that WellFormed refuses, words written out from the spec's encoding,
single cycles from 95_test_vectors.md, and a witness for the hypotheses of each statement that has some.
-/

namespace Sys2Proof.Tests

open Sys2Proof.Machine

/-- The next state of an outcome, if it has one. -/
def after (o : Host.Outcome State Fault Refusal) : Option State :=
  match o with
  | .next t => some t
  | .fault _ => none
  | .refused _ => none

/-- A state in the order of 95_test_vectors.md's notation `ss br code cr / ar el led`, default configuration. -/
def st (ss : Bool) (br : BitCount) (code : Byte) (cr ar : Bool) (el : Nat) (led : Bool) : State :=
  { State.reset with startSeen := ss, bitsRem := br, code := code, cmdReady := cr, armed := ar, elapsed := el, ledOut := led }

/-- The registers after one cycle with the word `w`, with the model's own fields as in `State.reset`. -/
def cyc (s : State) (w : Nat) : Option State :=
  (after (step (s.withInput w))).map fun t => { t with stimulus := [], cycle := 0 }

/-! ## Well-formedness refuses -/

theorem test_edge_interval_too_wide : ¬ (Instr.edge 65536).WellFormed Config.default := by decide
theorem test_classify_interval_too_wide : ¬ (Instr.classify true 65536).WellFormed Config.default := by decide
theorem test_input_interval_too_wide : ¬ CycleInput.WellFormed Config.default ⟨false, false, true, 65536⟩ := by decide
theorem test_statement_edge_too_wide : ¬ (Statement.edge 65536).WellFormed Config.default := by decide
theorem test_statement_edge_tick_too_wide : ¬ (Statement.edgeTick 65536).WellFormed Config.default := by decide
theorem test_edge_interval_widest : (Instr.edge 65535).WellFormed Config.default := by decide
theorem test_interval_width_nine_is_illegal : ¬ ({ Config.default with iw := 9 } : Config).Legal := by decide
theorem test_elapsed_width_zero_is_illegal : ¬ ({ Config.default with tw := 0 } : Config).Legal := by decide
theorem test_threshold_zero_is_illegal : ¬ ({ Config.default with threshold := 0 } : Config).Legal := by decide
theorem test_threshold_too_large_is_illegal : ¬ ({ Config.default with threshold := 65536 } : Config).Legal := by decide
theorem test_extreme_configurations_are_legal :
    ({ Config.default with threshold := 65535 } : Config).Legal ∧ ({ iw := 10, tw := 1, target := 0xDE, threshold := 1 } : Config).Legal := by
  decide

/-! ## Words written out from R51 and the rows of the opcode table -/

/-- RESET, row `1xxxxxxxxxxxxxxxxxx`. -/
theorem test_decode_reset : decodeTableWord 24 0b100_0000000000000000 = some .reset ∧
    decodeTableWord 24 0b111_1111111111111111 = some .reset := by decide
/-- EDGE, row `0t1iiiiiiiiiiiiiiii`: 750 is 0b1011101110 (R51: `0x102EE`). -/
theorem test_decode_edge : decodeTableWord 24 0b001_0000001011101110 = some (.edge 750) := by decide
/-- TICK, row `01eiiiiiiiiiiiiiiii`, with `e = 0`; the interval bits are don't-care. -/
theorem test_decode_tick : decodeTableWord 24 0b010_0000000000000000 = some .tick ∧
    decodeTableWord 24 0b010_0000000000000001 = some .tick := by decide
/-- NOP, row `000xxxxxxxxxxxxxxxx`, with `cmd_ready = 0`. -/
theorem test_decode_nop : decodeTableWord 24 0b000_1111111111111111 = some .nop := by decide
/-- DISPATCH, row `0xxxxxxxxxxxxxxxxxx`, selected by `cmd_ready = 1`, here beside an EDGE and a TICK. -/
theorem test_decode_dispatch :
    decode 16 true 0b000_0000000000000000 = .ok [.dispatch, .classify false 0] ∧
    decode 16 true 0b011_0000001011101110 = .ok [.edge 750, .tick, .dispatch, .classify true 750] := ⟨rfl, rfl⟩
/-- CLASSIFY, row `xxeiiiiiiiiiiiiiiii`, in every cycle. -/
theorem test_decode_classify :
    decode 16 false 0b001_0000000111000010 = .ok [.edge 450, .classify true 450] := rfl
theorem test_decode_refuses_a_twentieth_bit : decodeTableWord 24 0x80000 = none := by decide
/-- The narrowest legal port, `IW = 10`: `rst` is bit 12. -/
theorem test_decode_narrow_port : decode 10 false 0b001_1011101110 = .ok [.edge 750, .classify true 750] ∧
    decode 10 false 0b100_0000000000 = .ok [.reset, .classify false 0] := ⟨rfl, rfl⟩
/-- R59's FRAME 0x5E, as program P1 of 95_test_vectors.md writes its words. -/
theorem test_frame_words : stimulusWords 16 (PseudoStatement.frame 0x5E).expand =
    [0x102EE, 0x101C2, 0x1012C, 0x101C2, 0x101C2, 0x101C2, 0x101C2, 0x1012C] := by decide

/-! ## One cycle each (95_test_vectors.md, the row named) -/

/-- ED-16. -/
theorem test_edge_one_sets_bit_two :
    cyc (st true 3 0x58 false false 0 false) 0x101C2 = some (st true 2 0x5C false false 0 false) := by decide
/-- ED-19. -/
theorem test_edge_last_one_completes :
    cyc (st true 1 0x7E false false 0 false) 0x101CB = some (st true 0 0x7F true false 0 false) := by decide
/-- DI-10. -/
theorem test_dispatch_match_is_blind_to_an_edge :
    cyc (st true 0 0x5E true false 0 false) 0x102EE = some (st false 7 0x00 false true 0 true) := by decide
/-- DI-11, unreachable. -/
theorem test_dispatch_while_armed_only_resets_the_decoder :
    cyc (st true 0 0x5E true true 7 true) 0x00000 = some (st false 7 0x00 false true 7 true) := by decide
/-- TI-5. -/
theorem test_tick_times_out :
    cyc (st false 7 0x00 false true 39062 true) 0x20000 = some (st false 7 0x00 false false 0 false) := by decide
/-- TI-10, unreachable: the count wraps. -/
theorem test_tick_wraps :
    cyc (st false 7 0x00 false true 65535 true) 0x20000 = some (st false 7 0x00 false true 0 true) := by decide
/-- RS-4, every input bit set in an arbitrary state. -/
theorem test_reset_wins :
    cyc (st true 0 0xFF true true 65535 false) 0x7FFFF = some (st false 7 0x00 false false 0 false) := by decide
/-- CY-7. -/
theorem test_nop_ignores_interval_bits :
    cyc (st true 5 0x40 false false 0 false) 0x0FFFF = some (st true 5 0x40 false false 0 false) := by decide
/-- CL-4, CL-7, CL-10, CL-13 with the codes of R55. -/
theorem test_classify_band_edges :
    (classify State.reset true 441).code = 0b10 ∧ (classify State.reset true 460).code = 0b01 ∧
    (classify State.reset true 741).code = 0b11 ∧ (classify State.reset true 760).code = 0b01 := by decide
/-- CL-10 while armed and without an edge. -/
theorem test_classify_ignores :
    (classify (st false 7 0x00 false true 5 true) true 741).code = 0b00 ∧
    (classify State.reset false 741).code = 0b00 := by decide
/-- CY-5, unreachable: a DISPATCH and a timeout in one cycle. -/
theorem test_dispatch_and_timeout_together :
    cyc (st true 0 0x5E true true 39062 true) 0x20000 = some (st false 7 0x00 false false 0 false) := by decide

/-! ## Witnesses: a concrete case of the hypotheses of each statement -/

/-- The states the witnesses use: mid-frame, last bit, pending match, pending mismatch, armed one tick before the end. -/
def sampling7 : State := st true 7 0x00 false false 0 false
def sampling1 : State := st true 1 0x5E false false 0 false
def pendingMatch : State := st true 0 0x5E true false 0 false
def pendingMiss : State := st true 0 0x12 true false 0 false
def lit : State := st false 7 0x00 false true 39062 true

theorem wit_InputWordsRoundTrip :
    (CycleInput.mk true true true 65535).interval < 2 ^ 16 ∧ 0x7FFFF < 2 ^ (16 + 3) := by decide
theorem wit_EdgeAndTickAreSelected :
    (CycleInput.mk false true true 0).rst = false ∧ (CycleInput.mk false true true 0).edgeValid = true ∧
    (CycleInput.mk false true true 0).tick = true := by decide
theorem wit_DecodeOfEncodeSelectsTheOperation :
    (Instr.edge 65535).WellFormed Config.default ∧ (Instr.classify false 0).WellFormed Config.default := by decide
theorem wit_ClassifyIsGatedByListening :
    (pendingMiss.cmdReady = true ∧ lit.armed = true) ∧ State.reset.cmdReady = false ∧ State.reset.armed = false := by decide
theorem wit_EdgeIsDiscardedWhenNotListening :
    (pendingMiss.cmdReady = true ∨ pendingMiss.armed = true) ∧ (lit.cmdReady = true ∨ lit.armed = true) := by decide
theorem wit_SamplingTouchesOneCodeBit :
    sampling7.listening = true ∧ sampling7.startSeen = true ∧ sampling7.bitsRem ≠ 0 ∧
      after (exec (.edge 459) sampling7) = some (st true 6 0x40 false false 0 false) := by decide
theorem wit_LastBitCompletesTheCommand :
    (sampling1.listening = true ∧ sampling1.startSeen = true ∧ sampling1.bitsRem ≠ 0 ∧ sampling1.bitsRem = 1) ∧
    (sampling7.listening = true ∧ sampling7.startSeen = true ∧ sampling7.bitsRem ≠ 0 ∧ sampling7.bitsRem ≠ 1) ∧
    (CycleInput.mk false true true 0).rst = false := by decide
theorem wit_StartBandMidFrameIsAZero :
    sampling7.listening = true ∧ sampling7.startSeen = true ∧ sampling7.bitsRem ≠ 0 ∧ 740 < 741 ∧ 741 < 760 ∧
      ¬ (440 < 460 ∧ 460 < 460) := by decide
theorem wit_DispatchFollowsItsRule :
    pendingMatch.cmdReady = true ∧ pendingMatch.code = pendingMatch.cfg.target ∧ pendingMatch.armed = false ∧
    pendingMiss.cmdReady = true ∧ pendingMiss.code ≠ pendingMiss.cfg.target := by decide
theorem wit_UnselectedDispatchWritesNothing : sampling7.cmdReady = false := by decide
theorem wit_MismatchOnlyResetsTheDecoder :
    pendingMiss.cmdReady = true ∧ pendingMiss.code ≠ pendingMiss.cfg.target ∧ pendingMiss.armed = false := by decide
theorem wit_PendingCommandIsDispatchedOnce :
    (pendingMatch.withInput 0x302EE).cfg.Legal ∧ (pendingMatch.withInput 0x302EE).StimulusFits ∧
    (pendingMatch.withInput 0x302EE).cmdReady = true ∧ (CycleInput.mk false false false 0).rst = false := by decide
theorem wit_TimeoutEqualsReset :
    lit.armed = true ∧ lit.cfg.threshold ≤ (lit.elapsed + 1) % 2 ^ lit.cfg.tw := by decide
theorem wit_ResetLeavesTheResetState :
    lit.cfg.Legal ∧ 0x40000 < 2 ^ (lit.cfg.iw + 3) ∧ Nat.testBit 0x40000 (lit.cfg.iw + 2) = true ∧
    0x7FFFF < 2 ^ (lit.cfg.iw + 3) ∧ Nat.testBit 0x7FFFF (lit.cfg.iw + 2) = true := by decide
theorem wit_NopLeavesEveryRegister :
    sampling7.cfg.Legal ∧ sampling7.cmdReady = false ∧ 65535 < 2 ^ sampling7.cfg.iw := by decide
/-- The timeout changes `armed` (and here also the decode registers of an unreachable state); the tick just below it
changes `elapsed`; a match changes `armed`; an EDGE changes `start_seen`. -/
theorem wit_RegistersAreWrittenOnlyByTheirOperations :
    (after (exec .tick (st true 4 0x50 false true 39062 true)) = some State.reset ∧
      39063 ≤ (39062 + 1) % 2 ^ 16 ∧ State.reset.armed ≠ true ∧ State.reset.startSeen ≠ true) ∧
    (after (exec .tick (st true 4 0x50 false true 39061 true)) = some (st true 4 0x50 false true 39062 true) ∧
      ¬ 39063 ≤ (39061 + 1) % 2 ^ 16) ∧
    after (exec .dispatch pendingMatch) = some (st false 7 0x00 false true 0 true) ∧
    after (exec (.edge 750) State.reset) = some sampling7 ∧ sampling7.startSeen ≠ State.reset.startSeen := by decide
theorem wit_StepRunsTheDecodedOperation :
    (sampling7.withInput 0x101C2).cfg.Legal ∧
    decode (sampling7.withInput 0x101C2).cfg.iw (sampling7.withInput 0x101C2).cmdReady (sampling7.withInput 0x101C2).inputWord =
      .ok [.edge 450, .classify true 450] := ⟨by decide, rfl⟩
theorem wit_StepIsTheCycleRule :
    (lit.withInput 0x302EE).cfg.Legal ∧
    decodeWord (lit.withInput 0x302EE).cfg.iw (lit.withInput 0x302EE).inputWord = .ok ⟨false, true, true, 750⟩ :=
  ⟨by decide, rfl⟩
theorem wit_OperationsOfACycleCommute :
    [Instr.classify true 750, .dispatch, .tick, .edge 750].Perm
      ((CycleInput.mk false true true 750).operations pendingMatch.cmdReady) := by decide
theorem wit_OperationsOfACycleNeverConflict :
    Instr.dispatch ∈ (CycleInput.mk false true true 750).operations (st true 0 0x5E true true 39062 true).cmdReady ∧
    Instr.tick ∈ (CycleInput.mk false true true 750).operations (st true 0 0x5E true true 39062 true).cmdReady ∧
    after (exec .dispatch (st true 0 0x5E true true 39062 true)) = some lit ∧
    after (exec .tick (st true 0 0x5E true true 39062 true)) = some State.reset := by decide
/-- One case for each clause: an EDGE beside a TICK, a pending command, a match beside a TICK, a DISPATCH beside the timeout. -/
theorem wit_OperationsOfACycleExcludeEachOther :
    State.reset.edgeFires ⟨false, true, true, 750⟩ = true ∧
    pendingMiss.dispatchFires = true ∧ lit.tickCounted ⟨false, true, true, 750⟩ = true ∧
    pendingMatch.matchFires = true ∧
    (st true 0 0x5E true true 39061 true).dispatchFires = true ∧
    (st true 0 0x5E true true 39061 true).tickCounted ⟨false, true, false, 0⟩ = true ∧
    (st true 0 0x5E true true 39061 true).timeoutFires ⟨false, true, false, 0⟩ = false ∧
    (st true 0 0x5E true true 39062 true).dispatchFires = true ∧
    (st true 0 0x5E true true 39062 true).timeoutFires ⟨false, true, false, 0⟩ = true := by decide
theorem wit_AtMostOneOperationTakesEffect :
    (lit.withInput 0x302EE).Inv ∧ (lit.withInput 0x302EE).cfg.Legal ∧
    decodeWord (lit.withInput 0x302EE).cfg.iw (lit.withInput 0x302EE).inputWord = .ok ⟨false, true, true, 750⟩ :=
  ⟨by decide, by decide, rfl⟩
theorem wit_TooWideStimulusIsRefused : lit.cfg.Legal ∧ 2 ^ (lit.cfg.iw + 3) ≤ 0x80000 := by decide
theorem wit_EveryNumberOfCyclesCompletes : State.reset.InRange ∧ (lit.withInput 0x7FFFF).InRange := by decide
theorem wit_InvariantsHoldAfterReset :
    (State.reset.withInput 0x20000).cfg.Legal ∧ (State.reset.withInput 0x20000).IsResetState := by decide
theorem wit_StepKeepsTheInvariants :
    (sampling1.withInput 0x101CB).Inv ∧
    cyc sampling1 0x101CB = some (st true 0 0x5F true false 0 false) := by decide
theorem wit_StepKeepsTheRanges :
    (lit.withInput 0x20000).InRange ∧ cyc lit 0x20000 = some State.reset := by decide
theorem wit_DecodeStateMovesAlongItsEdges :
    (State.reset.withInput 0x102E5).Inv ∧ decodeWord 16 0x102E5 = .ok ⟨false, false, true, 741⟩ ∧
      cyc State.reset 0x102E5 = some sampling7 ∧
    (sampling1.withInput 0x101CB).Inv ∧ decodeWord 16 0x101CB = .ok ⟨false, false, true, 459⟩ ∧
      cyc sampling1 0x101CB = some (st true 0 0x5F true false 0 false) ∧
    (pendingMatch.withInput 0x00000).Inv ∧ decodeWord 16 0x00000 = .ok ⟨false, false, false, 0⟩ ∧
      cyc pendingMatch 0x00000 = some (st false 7 0x00 false true 0 true) :=
  ⟨by decide, rfl, by decide, by decide, rfl, by decide, by decide, rfl, by decide⟩
theorem wit_OnlyAMatchTurnsTheOutputOn :
    pendingMatch.cmdReady = true ∧ pendingMatch.code = pendingMatch.cfg.target ∧ pendingMatch.armed = false ∧
    pendingMatch.ledOut = false ∧ cyc pendingMatch 0x00000 = some (st false 7 0x00 false true 0 true) := by decide
theorem wit_OnlyTimeoutOrResetTurnsTheOutputOff :
    decodeWord 16 0x20000 = .ok ⟨false, true, false, 0⟩ ∧ lit.armed = true ∧ lit.ledOut = true ∧
      cyc lit 0x20000 = some State.reset ∧ cyc lit 0x40000 = some State.reset := ⟨rfl, by decide⟩
theorem wit_CommandBecomesPendingOnlyOnTheLastBit :
    decodeWord 16 0x101CB = .ok ⟨false, false, true, 459⟩ ∧ sampling1.cmdReady = false ∧
      (cyc sampling1 0x101CB).map State.cmdReady = some true := ⟨rfl, by decide⟩
theorem wit_HighTargetNeverLightsTheOutput :
    ({ pendingMatch with cfg := { Config.default with target := 0xDE }, stimulus := [0] } : State).Inv ∧
    (0xDE : Byte).getLsbD 7 = true ∧ pendingMatch.ledOut = false ∧
    (after (cycles 1 { pendingMatch with cfg := { Config.default with target := 0xDE }, stimulus := [0] })).map State.ledOut =
      some false := by decide
theorem wit_UnreadInputBitsAreDontCare :
    lit.cfg.Legal ∧ (0x40000 < 2 ^ (16 + 3) ∧ 0x7FFFF < 2 ^ (16 + 3)) ∧
    (Nat.testBit 0x40000 18 = true ∧ Nat.testBit 0x7FFFF 18 = true) ∧
    (Nat.testBit 0x20000 16 = false ∧ Nat.testBit 0x2FFFF 16 = false ∧ 0x20000 / 2 ^ 16 = 0x2FFFF / 2 ^ 16) := by decide
theorem wit_EdgesAreInvisibleWhileNotListening :
    lit.cfg.Legal ∧ lit.listening = false ∧ pendingMatch.listening = false ∧ 0x302EE < 2 ^ (16 + 3) ∧ 0x20000 < 2 ^ (16 + 3) ∧
    Nat.testBit 0x302EE 18 = Nat.testBit 0x20000 18 ∧ Nat.testBit 0x302EE 17 = Nat.testBit 0x20000 17 := by decide
theorem wit_OnlyTheBandOfAnIntervalMatters :
    sampling7.cfg.Legal ∧ rawClass 460 = rawClass 65535 ∧ rawClass 441 = rawClass 459 ∧ rawClass 741 = rawClass 759 := by decide
/-- Two ticks, an edge and an idle cycle inside the window, and the tick that ends it. -/
theorem wit_OutputWindowIsExact :
    ({ lit with elapsed := 39060, stimulus := [0x20000, 0x102EE, 0x00000, 0x302EE] ++ [0x20000] } : State).cfg.Legal ∧
    ({ lit with elapsed := 39060, stimulus := [0x20000, 0x102EE, 0x00000, 0x302EE] ++ [0x20000] } : State).Inv ∧
    (∀ w ∈ [0x20000, 0x102EE, 0x00000, 0x302EE, 0x20000], NoReset 16 w) ∧
    39060 + tickCount 16 [0x20000, 0x102EE, 0x00000, 0x302EE] + 1 = 39063 ∧ Nat.testBit 0x20000 (16 + 1) = true := by decide
/-- Noise, an idle cycle and ticks around a start bit and the bits of 0x5E. -/
theorem wit_SevenIntervalsMakeTheCommand :
    (∀ u ∈ [0x101C2, 0x00000, 0x102EE, 0x301C2, 0x1012C, 0x20000, 0x101C2, 0x101C2, 0x101C2, 0x101C2], NoReset 16 u) ∧
    NoReset 16 0x1012C ∧ Nat.testBit 0x1012C 16 = true ∧
    edgeIntervals 16 [0x101C2, 0x00000, 0x102EE, 0x301C2, 0x1012C, 0x20000, 0x101C2, 0x101C2, 0x101C2, 0x101C2] =
      [450] ++ 750 :: [450, 300, 450, 450, 450, 450] ∧
    State.reset.cfg.Legal ∧ State.reset.DecodeInitial ∧ State.reset.armed = false ∧
    shiftedCode ([450, 300, 450, 450, 450, 450] ++ [0x1012C % 2 ^ 16]) = 0x5E := by decide
theorem wit_FrameDeliversItsCommand :
    ({ State.reset with stimulus := stimulusWords 16 (PseudoStatement.frame 0x5E).expand ++ [] } : State).cfg.Legal ∧
    State.reset.DecodeInitial ∧ State.reset.armed = false := by decide
theorem wit_StalledFrameStays :
    sampling7.cfg.Legal ∧ sampling7.listening = true ∧ sampling7.startSeen = true ∧
    ∀ w ∈ [0x00000, 0x20000, 0x0FFFF], NoReset 16 w ∧ Nat.testBit w 16 = false := by decide

end Sys2Proof.Tests
end

/-!
PROOFS. The encodings of 30_encoding.md: the cycle input word (R51), the operation map (R52), the inputs that the
selected operations do not read (R53), and the classification's code (R55).
-/

namespace Sys2Proof

open Sys2Proof.Machine

/-! ## The cycle input word (R51) -/

/-- A one-bit field packed at bit `i` occupies that bit alone. -/
theorem testBit_bit_field (b : Bool) (i k : Nat) :
    (decide (i ≤ k) && b.toNat.testBit (k - i)) = (decide (k = i) && b) := by
  have hk : (i ≤ k ∧ k - i = 0) ↔ k = i := by omega
  rw [Nat.testBit_bool_toNat, ← Bool.and_assoc, ← Bool.decide_and, decide_eq_decide.mpr hk]

/-- A number of `m` bits has none at or above bit `m`. -/
theorem testBit_above_width {x m k : Nat} (h : x < 2 ^ m) (hk : m ≤ k) : x.testBit k = false :=
  Nat.testBit_lt_two_pow (h.trans_le (Nat.pow_le_pow_right (by omega) hk))

/-- The layout of a packed word: with an interval that fits, no two fields share a bit. -/
theorem testBit_word_of_fits {iw : Nat} {ci : CycleInput} (h : ci.interval < 2 ^ iw) (k : Nat) :
    (ci.word iw).testBit k =
      if k = iw + 2 then ci.rst else if k = iw + 1 then ci.tick else if k = iw then ci.edgeValid
      else ci.interval.testBit k := by
  rw [testBit_word, testBit_bit_field, testBit_bit_field, testBit_bit_field]
  split_ifs with h2 h1 h0
  · simp [h2, testBit_above_width h (Nat.le_add_right iw 2)]
  · simp [h1, testBit_above_width h (Nat.le_add_right iw 1)]
  · simp [h0, testBit_above_width h le_rfl]
  · simp [h2, h1, h0]

/-- The bits below `IW` are the interval. -/
theorem word_mod_of_fits {iw : Nat} {ci : CycleInput} (h : ci.interval < 2 ^ iw) :
    ci.word iw % 2 ^ iw = ci.interval := by
  refine Nat.eq_of_testBit_eq fun k => ?_
  rw [Nat.testBit_mod_two_pow, testBit_word_of_fits h]
  by_cases hk : k < iw
  · have h2 : k ≠ iw + 2 := by omega
    have h1 : k ≠ iw + 1 := by omega
    simp [hk, h2, h1, hk.ne]
  · simp [hk, testBit_above_width h (Nat.le_of_not_lt hk)]

/-- Packing, then unpacking. -/
theorem decodeWord_word {iw : Nat} {ci : CycleInput} (h : ci.interval < 2 ^ iw) :
    decodeWord iw (ci.word iw) = .ok ci := by
  rw [decodeWord_of_lt (word_lt h), word_mod_of_fits h]
  simp [testBit_word_of_fits h]

/-- Unpacking, then packing: the bits at and above `IW + 3` are 0 on both sides. -/
theorem word_of_decodeWord {iw w : Nat} {ci : CycleInput} (h : decodeWord iw w = .ok ci) : ci.word iw = w := by
  obtain ⟨hw, hrst, htick, hedge, hint⟩ := decodeWord_ok h
  have hfits : ci.interval < 2 ^ iw := hint ▸ Nat.mod_lt _ (by positivity)
  refine Nat.eq_of_testBit_eq fun k => ?_
  rw [testBit_word_of_fits hfits, hrst, htick, hedge, hint, Nat.testBit_mod_two_pow]
  split_ifs with h2 h1 h0
  · rw [h2]
  · rw [h1]
  · rw [h0]
  · by_cases hk : k < iw
    · simp [hk]
    · simp [testBit_above_width hw (by omega : iw + 3 ≤ k)]

/-- Settles O2, from the layout of a packed word's bits. -/
theorem inputWordsRoundTrip : Obligations.InputWordsRoundTrip := by
  refine ⟨fun iw ci h => ⟨word_lt h, decodeWord_word h, rfl⟩, fun iw w h => ?_, by decide⟩
  have hd := decodeWord_of_lt h
  exact ⟨_, hd, Nat.mod_lt _ (by positivity), word_of_decodeWord hd⟩

/-! ## The operation map (R52) -/

/-- `rst` wins over every other input (R52). -/
theorem selected_of_rst {ci : CycleInput} (h : ci.rst = true) (d : Bool) : ci.selected d = [.reset] := by
  simp [CycleInput.selected, h]

/-- The operations selected beside CLASSIFY, one disjunct for each row of the map. -/
theorem mem_selected_iff (ci : CycleInput) (d : Bool) (i : Instr) :
    i ∈ ci.selected d ↔
      (ci.rst = true ∧ i = .reset) ∨
      (ci.rst = false ∧
        ((ci.edgeValid = true ∧ i = .edge ci.interval) ∨ (ci.tick = true ∧ i = .tick) ∨ (d = true ∧ i = .dispatch) ∨
          (ci.edgeValid = false ∧ ci.tick = false ∧ d = false ∧ i = .nop))) := by
  cases hr : ci.rst with
  | true => simp [selected_of_rst hr]
  | false =>
    by_cases hidle : ci.edgeValid = false ∧ ci.tick = false ∧ d = false
    · obtain ⟨he, ht, rfl⟩ := hidle
      simp [CycleInput.selected, hr, he, ht]
    · have hguard : (!ci.edgeValid && !ci.tick && !d) = false := by
        simpa [and_assoc] using hidle
      have hnop : ¬ (ci.edgeValid = false ∧ ci.tick = false ∧ d = false ∧ i = .nop) :=
        fun ⟨he, ht, hd, _⟩ => hidle ⟨he, ht, hd⟩
      simp [CycleInput.selected, hr, hguard, hnop]

/-- CLASSIFY is evaluated in every cycle (R63), and no input selects it. -/
theorem mem_operations_iff (ci : CycleInput) (d : Bool) (i : Instr) :
    i ∈ ci.operations d ↔ i ∈ ci.selected d ∨ i = .classify ci.edgeValid ci.interval := by
  simp [CycleInput.operations]

/-- Settles O3: each clause is one row of the operation map. -/
theorem inputsAndStateSelectTheOperations : Obligations.InputsAndStateSelectTheOperations := by
  intro ci d
  simp only [mem_operations_iff, mem_selected_iff]
  exact ⟨by simp, fun v => by simp, by simp, by simp, by simp, fun e v => by simp⟩

/-! ## Inputs that are not read (R53) -/

/-- The operations of a cycle complete: none of them faults or refuses. -/
theorem perform_completes (pre acc : State) (ops : List Instr) : ∃ t, perform pre acc ops = .next t := by
  induction ops generalizing acc with
  | nil => exact ⟨acc, rfl⟩
  | cons i rest ih =>
    obtain ⟨post, hpost, -⟩ := exec_next i pre
    rw [perform_cons hpost]
    exact ih _

/-- The CLASSIFY at a cycle's end writes nothing (R64). -/
theorem perform_append_classify (pre acc : State) (ops : List Instr) (e : Bool) (v : Nat) :
    perform pre acc (ops ++ [.classify e v]) = perform pre acc ops := by
  induction ops generalizing acc with
  | nil => simp
  | cons i rest ih =>
    obtain ⟨post, hpost, -⟩ := exec_next i pre
    rw [List.cons_append, perform_cons hpost, perform_cons hpost, ih]

/-- A cycle under a given word performs the selected operations; the word itself is used up. -/
theorem step_withInput {s : State} {w : Nat} {ci : CycleInput} (hc : s.cfg.Legal)
    (h : decodeWord s.cfg.iw w = .ok ci) :
    step (s.withInput w) = perform s.nextCycle s.nextCycle (ci.selected s.cmdReady) := by
  have hnext : (s.withInput w).nextCycle = s.nextCycle := rfl
  have hdec : decode s.nextCycle.cfg.iw s.nextCycle.cmdReady w = .ok (ci.operations s.cmdReady) :=
    decode_of_decodeWord _ h
  rw [step_of_legal (s := s.withInput w) hc, hnext, inputWord_withInput, runCycle_of_decode hdec, CycleInput.operations,
    perform_append_classify]

/-- A step depends on its word through the selected operations only. -/
theorem step_withInput_congr {s : State} {v w : Nat} {a b : CycleInput} (hc : s.cfg.Legal)
    (ha : decodeWord s.cfg.iw v = .ok a) (hb : decodeWord s.cfg.iw w = .ok b)
    (h : a.selected s.cmdReady = b.selected s.cmdReady) : step (s.withInput v) = step (s.withInput w) := by
  rw [step_withInput hc ha, step_withInput hc hb, h]

/-- Without an edge the interval selects nothing. -/
theorem selected_congr_of_no_edge {a b : CycleInput} (d : Bool) (hr : a.rst = b.rst) (ht : a.tick = b.tick)
    (ha : a.edgeValid = false) (hb : b.edgeValid = false) : a.selected d = b.selected d := by
  simp [CycleInput.selected, hr, ht, ha, hb]

/-- Words that agree from bit `m` up agree in each of those bits. -/
theorem testBit_add_congr_of_div_eq {v w m : Nat} (h : v / 2 ^ m = w / 2 ^ m) (k : Nat) :
    v.testBit (m + k) = w.testBit (m + k) := by
  rw [Nat.add_comm, ← Nat.testBit_div_two_pow, ← Nat.testBit_div_two_pow, h]

/-- Settles O39: the words select the same operations, and those decide the step. -/
theorem unreadInputBitsAreDontCare : Obligations.UnreadInputBitsAreDontCare := by
  intro s v w hc hv hw
  have hdv := decodeWord_of_lt hv
  have hdw := decodeWord_of_lt hw
  refine ⟨?completes, fun hrv hrw => ?reset, fun hev hew hdiv => ?noEdge⟩
  case completes =>
    rw [step_withInput hc hdw]
    exact perform_completes _ _ _
  case reset =>
    exact step_withInput_congr hc hdv hdw ((selected_of_rst hrv _).trans (selected_of_rst hrw _).symm)
  case noEdge =>
    exact step_withInput_congr hc hdv hdw
      (selected_congr_of_no_edge _ (testBit_add_congr_of_div_eq hdiv 2) (testBit_add_congr_of_div_eq hdiv 1) hev hew)

/-! ## The classification's code (R55) -/

theorem ofCode_code (c : Classification) : Classification.ofCode c.code = c := by
  cases c <;> rfl

theorem code_ofCode (b : BitVec 2) : (Classification.ofCode b).code = b := by
  revert b
  decide

/-- Settles O8: the code's four values, and that it is a bijection. -/
theorem classificationHasItsCode : Obligations.ClassificationHasItsCode :=
  ⟨rfl, rfl, rfl, rfl, ofCode_code, code_ofCode⟩

end Sys2Proof

/-!
PROOFS. The interval classifier of 40_classifier.md: the comparators and the raw classification (R60, R61), and the
listening gate in front of them (R62 to R64).
-/

namespace Sys2Proof

open Sys2Proof.Machine

/-! ## The comparators and the raw classification (R60, R61) -/

/-- The bands are disjoint: the One band ends below the start band. -/
theorem not_isStart_and_isOne (v : Nat) : ¬ (isStart v = true ∧ isOne v = true) := by
  rw [isStart_iff, isOne_iff]
  omega

/-- Zero is the remaining case of the raw classification, which is never `Ignore`. -/
theorem rawClass_eq_zero (v : Nat) : rawClass v = .zero ↔ ¬ (740 < v ∧ v < 760) ∧ ¬ (440 < v ∧ v < 460) := by
  rw [← rawClass_eq_startBit, ← rawClass_eq_one]
  cases h : rawClass v with
  | ignore => exact absurd h (rawClass_ne_ignore v)
  | zero | one | startBit => simp

/-- Settles O6: each comparator's band, their disjointness, and the three raw classifications. -/
theorem thresholdComparatorsAreStrict : Obligations.ThresholdComparatorsAreStrict := fun v =>
  ⟨isStart_iff v, isOne_iff v, not_isStart_and_isOne v, rawClass_eq_startBit v, rawClass_eq_one v, rawClass_eq_zero v⟩

/-! ## The listening gate (R62, R63) -/

/-- Without an edge there is nothing to classify. -/
theorem classify_of_no_edge (s : State) (v : Nat) : classify s false v = .ignore := rfl

/-- A pending command or an armed output shuts the gate, with or without an edge. -/
theorem classify_of_not_listening {s : State} (e : Bool) (v : Nat) (h : s.cmdReady = true ∨ s.armed = true) :
    classify s e v = .ignore := by
  obtain ⟨hignore, -⟩ | ⟨-, -, hready, harmed⟩ := classify_cases s e v
  · exact hignore
  · simp [hready, harmed] at h

/-- An edge while listening passes the gate with its interval's raw classification. -/
theorem classify_of_listening {s : State} (v : Nat) (hready : s.cmdReady = false) (harmed : s.armed = false) :
    classify s true v = rawClass v := by
  obtain ⟨-, hshut⟩ | ⟨hraw, -⟩ := classify_cases s true v
  · simp [hready, harmed] at hshut
  · exact hraw

/-- CLASSIFY completes and writes no register (R64). -/
theorem exec_classify (e : Bool) (v : Nat) (s : State) : exec (.classify e v) s = .next s := rfl

/-- CLASSIFY is evaluated in every cycle, with the inputs of that cycle. -/
theorem classify_mem_operations (ci : CycleInput) (d : Bool) :
    .classify ci.edgeValid ci.interval ∈ ci.operations d :=
  (mem_operations_iff ci d _).mpr (.inr rfl)

/-- Settles O7: the gate's cases, and CLASSIFY as an operation of the cycle. -/
theorem classifyIsGatedByListening : Obligations.ClassifyIsGatedByListening := fun s v =>
  ⟨listening_iff s, classify_of_no_edge s v, classify_of_not_listening true v, classify_of_listening v,
    fun e => exec_classify e v s, fun ci => classify_mem_operations ci s.cmdReady⟩

end Sys2Proof

/-!
PROOFS. The bit accumulator of 41_accumulator.md: one lemma for each regime of EDGE (R66), and from them the rule's
pseudocode, the discarded edge (R67), completion (R70) and the start-band interval in mid-frame (R72).
-/

namespace Sys2Proof

open Sys2Proof.Machine

/-! ## The regimes of EDGE (R66) -/

theorem listening_eq_false_iff (s : State) : s.listening = false ↔ s.cmdReady = true ∨ s.armed = true := by
  cases hr : s.cmdReady <;> cases ha : s.armed <;> simp [State.listening, hr, ha]

/-- Not listening: the edge is discarded (R67). -/
theorem exec_edge_of_not_listening {s : State} (v : Nat) (h : s.cmdReady = true ∨ s.armed = true) :
    exec (.edge v) s = .next s := by
  have hl : s.listening = false := (listening_eq_false_iff s).mpr h
  rw [exec_edge, if_neg (by simp [hl])]

/-- AwaitingStart: only a start-band interval writes (R68). -/
theorem exec_edge_of_awaitingStart {s : State} (v : Nat) (hl : s.listening = true) (hs : s.startSeen = false) :
    exec (.edge v) s = .next (if 740 < v ∧ v < 760 then s.acceptStart else s) := by
  rw [exec_edge, if_pos hl, edgeOn, if_neg (rawClass_ne_ignore v), if_pos hs]
  simp only [rawClass_eq_startBit]

/-- `Sampling(0)`, which no run reaches (R71). -/
theorem exec_edge_of_samplingZero {s : State} (v : Nat) (hl : s.listening = true) (hs : s.startSeen = true)
    (hb : s.bitsRem = 0) : exec (.edge v) s = .next s := by
  rw [exec_edge, if_pos hl, edgeOn, if_neg (rawClass_ne_ignore v), if_neg (by simp [hs]), if_pos hb]

/-- `Sampling(n)` with `n > 0`: a bit is sampled, a One exactly in the One band (R69, R72). -/
theorem exec_edge_of_sampling {s : State} (v : Nat) (hl : s.listening = true) (hs : s.startSeen = true)
    (hb : s.bitsRem ≠ 0) : exec (.edge v) s = .next (s.sampleBit (decide (440 < v ∧ v < 460))) := by
  rw [exec_edge, if_pos hl, edgeOn, if_neg (rawClass_ne_ignore v), if_neg (by simp [hs]), if_neg hb]
  simp only [rawClass_eq_one]

/-! ## A sampled bit (R69, R70) -/

/-- The count goes down by one without a borrow. -/
theorem toNat_sub_one_of_ne_zero {n : BitCount} (h : n ≠ 0) : (n - 1).toNat = n.toNat - 1 := by
  revert n
  decide

theorem sampleMask_of_ne_zero {n : BitCount} (h : n ≠ 0) : sampleMask n = 1#8 <<< (n.toNat - 1) := by
  rw [sampleMask, toNat_sub_one_of_ne_zero h]

/-- Where no command is pending, the sampled bit completes one exactly when it is the last (R70). -/
theorem sampleBit_cmdReady_of_not_ready {s : State} (one : Bool) (hready : s.cmdReady = false) :
    (s.sampleBit one).cmdReady = decide (s.bitsRem = 1) := by
  have hlast : lastBit s.bitsRem = decide (s.bitsRem = 1) := Bool.eq_iff_iff.mpr (by simp [lastBit_iff])
  simp [hlast, hready]

/-- The writes of a sampled bit as R66's pseudocode has them. -/
theorem sampleBit_eq {s : State} (one : Bool) (hready : s.cmdReady = false) (hb : s.bitsRem ≠ 0) :
    s.sampleBit one = { s with
      code := if one then s.code ||| 1#8 <<< (s.bitsRem.toNat - 1) else s.code
      bitsRem := s.bitsRem - 1
      cmdReady := decide (s.bitsRem = 1) } := by
  rw [← sampleMask_of_ne_zero hb, ← sampleBit_cmdReady_of_not_ready one hready]
  rfl

/-! ## The rules -/

/-- An edge selects EDGE in every cycle without `rst` (R52). -/
theorem edge_mem_operations {ci : CycleInput} (d : Bool) (hr : ci.rst = false) (he : ci.edgeValid = true) :
    .edge ci.interval ∈ ci.operations d :=
  (mem_operations_iff ci d _).mpr (.inl ((mem_selected_iff ci d _).mpr (.inr ⟨hr, .inl ⟨he, rfl⟩⟩)))

/-- A pending command selects DISPATCH in every cycle without `rst` (R52, D7). -/
theorem dispatch_mem_operations {ci : CycleInput} (hr : ci.rst = false) : .dispatch ∈ ci.operations true :=
  (mem_operations_iff ci true _).mpr (.inl ((mem_selected_iff ci true _).mpr (.inr ⟨hr, .inr (.inr (.inl ⟨rfl, rfl⟩))⟩)))

/-- Settles O9, one regime of EDGE for each branch of the pseudocode. -/
theorem edgeFollowsTheAccumulatorRule : Obligations.EdgeFollowsTheAccumulatorRule := by
  refine ⟨fun ci d hr he => edge_mem_operations d hr he, fun s v => ?_⟩
  by_cases hshut : s.cmdReady = true ∨ s.armed = true
  · rw [exec_edge_of_not_listening v hshut, if_pos hshut]
  have hl : s.listening = true := Bool.eq_true_of_not_eq_false (mt (listening_eq_false_iff s).mp hshut)
  obtain ⟨hready, -⟩ := (listening_iff s).mp hl
  rw [if_neg hshut]
  by_cases hs : s.startSeen = false
  · rw [exec_edge_of_awaitingStart v hl hs, if_pos hs]
    rfl
  have hs' : s.startSeen = true := Bool.eq_true_of_not_eq_false hs
  rw [if_neg hs]
  by_cases hb : s.bitsRem = 0
  · rw [exec_edge_of_samplingZero v hl hs' hb, if_pos hb]
  · rw [exec_edge_of_sampling v hl hs' hb, sampleBit_eq _ hready hb, if_neg hb]
    simp only [decide_eq_true_eq]

/-- Settles O10. -/
theorem edgeIsDiscardedWhenNotListening : Obligations.EdgeIsDiscardedWhenNotListening :=
  fun _ v h => exec_edge_of_not_listening v h

/-- Settles O12: the bit sampled at `bits_rem = 1` leaves a pending command, which shuts the gate and selects DISPATCH. -/
theorem lastBitCompletesTheCommand : Obligations.LastBitCompletesTheCommand := by
  intro s v hl hs hb
  obtain ⟨hready, -⟩ := (listening_iff s).mp hl
  have hcmd (one : Bool) : (s.sampleBit one).cmdReady = decide (s.bitsRem = 1) :=
    sampleBit_cmdReady_of_not_ready one hready
  refine ⟨_, exec_edge_of_sampling v hl hs hb, hs, fun hlast => ?last, fun hmore => ?earlier⟩
  case last =>
    have hpending (one : Bool) : (s.sampleBit one).cmdReady = true := (hcmd one).trans (decide_eq_true hlast)
    refine ⟨?_, hpending _, (listening_eq_false_iff _).mpr (.inl (hpending _)), fun ci hr => ?_⟩
    · rw [State.sampleBit_bitsRem, hlast]
      rfl
    · rw [hpending]
      exact dispatch_mem_operations hr
  case earlier => exact ⟨sub_ne_zero.mpr hmore, (hcmd _).trans (decide_eq_false hmore)⟩

/-- Settles O13: the start band lies outside the One band, and the sampled bit depends on nothing else. -/
theorem startBandMidFrameIsAZero : Obligations.StartBandMidFrameIsAZero := by
  intro s v w hl hs hb hlo hhi hw
  have hv : ¬ (440 < v ∧ v < 460) := by omega
  have hzero {u : Nat} (hu : ¬ (440 < u ∧ u < 460)) : exec (.edge u) s = .next (s.sampleBit false) := by
    rw [exec_edge_of_sampling u hl hs hb, decide_eq_false hu]
  refine ⟨(hzero hv).trans (hzero hw).symm, _, hzero hv, ?_, rfl, hs⟩
  have hpos : s.bitsRem.toNat ≠ 0 := fun h => hb (BitVec.eq_of_toNat_eq h)
  rw [State.sampleBit_bitsRem, toNat_sub_one_of_ne_zero hb]
  omega

end Sys2Proof

/-!
PROOFS. The command detector of 42_dispatch.md: the cases of DISPATCH (R74 to R76), the cycle with a pending command
(R79), and who may turn the output on (R75).
-/

namespace Sys2Proof

open Sys2Proof.Machine

/-! ## The cases of DISPATCH (R74) -/

theorem matchFires_iff (s : State) :
    s.matchFires = true ↔ s.cmdReady = true ∧ s.code = s.cfg.target ∧ s.armed = false := by
  rw [State.matchFires, Bool.and_eq_true, codeMatches_iff]
  rfl

/-- A match arms, and resets the decoder (R75). -/
theorem exec_dispatch_of_match {s : State} (h : s.matchFires = true) :
    exec .dispatch s = .next s.arm.decodeReset := by
  obtain ⟨hready, hcode⟩ := (matchFires_iff s).mp h
  rw [exec_dispatch, if_pos hready, if_pos ((codeMatches_iff s).mpr hcode)]

/-- Any other pending command is discarded (R76, R77). -/
theorem exec_dispatch_of_no_match {s : State} (hready : s.cmdReady = true)
    (h : ¬ (s.code = s.cfg.target ∧ s.armed = false)) : exec .dispatch s = .next s.decodeReset := by
  rw [exec_dispatch, if_pos hready, if_neg (mt (codeMatches_iff s).mp h)]

theorem decodeReset_decodeInitial (s : State) : s.decodeReset.DecodeInitial := ⟨rfl, rfl, rfl, rfl⟩

/-- Matched or not, a pending command is gone after its DISPATCH (R74). -/
theorem exec_dispatch_decodeInitial {s : State} (hready : s.cmdReady = true) :
    ∃ t, exec .dispatch s = .next t ∧ t.DecodeInitial := by
  by_cases h : s.code = s.cfg.target ∧ s.armed = false
  · exact ⟨_, exec_dispatch_of_match ((matchFires_iff s).mpr ⟨hready, h⟩), decodeReset_decodeInitial _⟩
  · exact ⟨_, exec_dispatch_of_no_match hready h, decodeReset_decodeInitial _⟩

/-! ## A cycle's operations one by one (R88) -/

/-- An operation that leaves the pre-state as it is may be left out of its cycle. -/
theorem perform_optional_of_unchanged {pre : State} (acc : State) {i : Instr} (selected : Bool) (rest : List Instr)
    (h : selected = true → exec i pre = .next pre) :
    perform pre acc ((if selected then [i] else []) ++ rest) = perform pre acc rest := by
  cases selected with
  | false => rfl
  | true =>
    rw [if_pos rfl, List.singleton_append, perform_cons (h rfl), commit_unchanged]

/-- A cycle of one operation is that operation. -/
theorem perform_singleton (i : Instr) (s : State) : perform s s [i] = exec i s := by
  obtain ⟨t, ht, hs⟩ := exec_next i s
  rw [perform_cons ht, commit_first hs, perform_nil, ht]

/-- A step in a legal configuration performs the operations that the decoded inputs select. -/
theorem step_of_decodeWord {s : State} {ci : CycleInput} (hc : s.cfg.Legal)
    (h : decodeWord s.cfg.iw s.inputWord = .ok ci) :
    step s = perform s.nextCycle s.nextCycle (ci.operations s.cmdReady) := by
  have hdec : decode s.nextCycle.cfg.iw s.nextCycle.cmdReady s.inputWord = .ok (ci.operations s.cmdReady) :=
    decode_of_decodeWord _ h
  rw [step_of_legal hc, runCycle_of_decode hdec]

/-- A cycle with `rst = 1` is RESET alone (R107). -/
theorem perform_operations_of_rst {ci : CycleInput} (hr : ci.rst = true) (s : State) (d : Bool) :
    perform s s (ci.operations d) = .next s.fullReset := by
  rw [CycleInput.operations, selected_of_rst hr]
  exact perform_single _ _ rfl

/-! ## The cycle with a pending command (R79) -/

/-- Edges are discarded while a command is pending, which leaves TICK and DISPATCH. -/
theorem perform_operations_of_pending {s : State} {ci : CycleInput} (hr : ci.rst = false) (hready : s.cmdReady = true) :
    perform s s (ci.operations true) = perform s s ((if ci.tick then [.tick] else []) ++ [.dispatch]) := by
  have hsel : ci.selected true =
      (if ci.edgeValid then [.edge ci.interval] else []) ++ ((if ci.tick then [.tick] else []) ++ [.dispatch]) := by
    simp [CycleInput.selected, hr]
  rw [CycleInput.operations, perform_append_classify, hsel,
    perform_optional_of_unchanged _ _ _ fun _ => exec_edge_of_not_listening _ (.inl hready)]

/-- Without a counted tick (R81) a pending command has the cycle to itself. -/
theorem perform_pending_of_no_counted_tick {s : State} {ci : CycleInput} (hr : ci.rst = false)
    (hready : s.cmdReady = true) (h : ci.tick = true → s.armed = false) :
    perform s s (ci.operations true) = exec .dispatch s := by
  have htick (hsel : ci.tick = true) : exec .tick s = .next s := by
    rw [exec_tick, h hsel]
    rfl
  rw [perform_operations_of_pending hr hready, perform_optional_of_unchanged _ _ _ htick, perform_singleton]

/-- A write of the value that the cycle already has. -/
@[simp] theorem writeOver_new {α : Type} [DecidableEq α] (old new : α) : writeOver old new new = new := by
  unfold writeOver
  split <;> rfl

/-- The decode reset comes on top of what a tick has written: a tick writes the decode registers in the timeout only,
and then with the values that the decode reset writes. -/
theorem perform_tick_dispatch_of_armed {s : State} (hready : s.cmdReady = true) (harmed : s.armed = true) :
    perform s s [.tick, .dispatch] = .next (if s.reachesThreshold then s.fullReset else s.countTick).decodeReset := by
  have hdispatch : exec .dispatch s = .next s.decodeReset := exec_dispatch_of_no_match hready (by simp [harmed])
  obtain ⟨u, htick, houtside⟩ := exec_next .tick s
  rw [perform_cons htick, commit_first houtside, perform_cons hdispatch, perform_nil]
  rw [exec_tick, if_pos harmed] at htick
  cases htick
  split <;> simp [State.commit, State.decodeReset, State.fullReset, State.disarm, State.countTick]

/-- Whatever comes with it, a pending command is gone after its cycle. -/
theorem perform_pending_decodeInitial {s : State} (ci : CycleInput) (hready : s.cmdReady = true) :
    ∃ t, perform s s (ci.operations true) = .next t ∧ t.DecodeInitial := by
  cases hr : ci.rst with
  | true => exact ⟨_, perform_operations_of_rst hr s true, decodeReset_decodeInitial _⟩
  | false =>
    by_cases hcounted : ci.tick = true ∧ s.armed = true
    · obtain ⟨htick, harmed⟩ := hcounted
      rw [perform_operations_of_pending hr hready, htick]
      exact ⟨_, perform_tick_dispatch_of_armed hready harmed, decodeReset_decodeInitial _⟩
    · rw [perform_pending_of_no_counted_tick hr hready (by simpa using hcounted)]
      exact exec_dispatch_decodeInitial hready

/-! ## Who writes a register in a cycle -/

/-- A field of the state into which a cycle brings the operations' writes. -/
def IsRegister {α : Type} [DecidableEq α] (f : State → α) : Prop :=
  ∀ pre post acc : State, f (pre.commit post acc) = writeOver (f pre) (f post) (f acc)

/-- A register that a cycle has changed holds what one of the cycle's operations has changed it to (R10). -/
theorem exists_writer_of_perform {α : Type} [DecidableEq α] {f : State → α} (hf : IsRegister f) {pre acc t : State}
    {ops : List Instr} (h : perform pre acc ops = .next t) (hne : f t ≠ f acc) :
    ∃ i ∈ ops, ∃ post, exec i pre = .next post ∧ f post ≠ f pre ∧ f t = f post := by
  induction ops generalizing acc with
  | nil =>
    cases h
    exact absurd rfl hne
  | cons i rest ih =>
    obtain ⟨post, hpost, -⟩ := exec_next i pre
    rw [perform_cons hpost] at h
    by_cases hlater : f t = f (pre.commit post acc)
    · have hwrite : f (pre.commit post acc) = if f post = f pre then f acc else f post := hf pre post acc
      by_cases hsame : f post = f pre
      · rw [if_pos hsame] at hwrite
        exact absurd (hlater.trans hwrite) hne
      · rw [if_neg hsame] at hwrite
        exact ⟨i, List.mem_cons_self, post, hpost, hsame, hlater.trans hwrite⟩
    · obtain ⟨j, hj, hwriter⟩ := ih h hlater
      exact ⟨j, List.mem_cons_of_mem i hj, hwriter⟩

/-- DISPATCH is selected by a pending command in a cycle without `rst` only (R52). -/
theorem rst_eq_false_of_dispatch_mem {ci : CycleInput} {d : Bool} (h : .dispatch ∈ ci.operations d) :
    ci.rst = false := by
  cases hr : ci.rst with
  | false => rfl
  | true => simp [mem_operations_iff, selected_of_rst hr] at h

/-! ## Who turns the output on (R75) -/

/-- `armed` and `led_out` are 1 after an operation only if they were before, except after a matching DISPATCH. -/
theorem exec_match_or_not_turned_on {i : Instr} {s t : State} (h : exec i s = .next t) :
    (i = .dispatch ∧ s.matchFires = true) ∨
      ((t.armed = true → s.armed = true) ∧ (t.ledOut = true → s.ledOut = true)) := by
  cases i with
  | reset =>
    cases h
    right
    simp
  | edge v =>
    cases h
    right
    obtain h | ⟨h, -⟩ | ⟨h, -⟩ := edgeOn_cases (classify s true v) s <;> simp [h]
  | tick =>
    rw [exec_tick] at h
    cases h
    right
    split_ifs <;> simp
  | dispatch =>
    cases hmatch : s.matchFires with
    | true => exact .inl ⟨rfl, rfl⟩
    | false =>
      right
      rw [exec_dispatch] at h
      cases h
      split_ifs with hready hcode
      · simp [State.matchFires, State.dispatchFires, hready, hcode] at hmatch
      · simp
      · simp
  | nop | classify =>
    cases h
    exact .inr ⟨id, id⟩

/-- A one-bit register that no operation but a matching DISPATCH turns on is turned on by a cycle only through one. -/
theorem match_of_register_turned_on {f : State → Bool} (hf : IsRegister f) {s t : State} {ops : List Instr}
    (hop : ∀ i u, exec i s = .next u → (i = .dispatch ∧ s.matchFires = true) ∨ (f u = true → f s = true))
    (h : perform s s ops = .next t) (hoff : f s = false) (hon : f t = true) :
    .dispatch ∈ ops ∧ s.matchFires = true := by
  obtain ⟨i, hi, u, hu, -, htu⟩ := exists_writer_of_perform hf h (by simp [hoff, hon])
  obtain ⟨rfl, hmatch⟩ | hkeep := hop i u hu
  · exact ⟨hi, hmatch⟩
  · have hson : f s = true := hkeep (htu.symm.trans hon)
    simp [hoff] at hson

/-- A cycle that turns `armed` or `led_out` on has a matching DISPATCH. -/
theorem perform_turns_on_by_match {s t : State} {ops : List Instr} (h : perform s s ops = .next t)
    (hon : (s.armed = false ∧ t.armed = true) ∨ (s.ledOut = false ∧ t.ledOut = true)) :
    .dispatch ∈ ops ∧ s.matchFires = true := by
  obtain ⟨hoff, hup⟩ | ⟨hoff, hup⟩ := hon
  · exact match_of_register_turned_on State.commit_armed
      (fun _ _ hu => (exec_match_or_not_turned_on hu).imp_right And.left) h hoff hup
  · exact match_of_register_turned_on State.commit_ledOut
      (fun _ _ hu => (exec_match_or_not_turned_on hu).imp_right And.right) h hoff hup

/-! ## The rules -/

/-- Settles O17: RESET, a counted tick and the dispatch itself all leave the decoder at `Initial`. -/
theorem pendingCommandIsDispatchedOnce : Obligations.PendingCommandIsDispatchedOnce := by
  intro s hc hfits hready
  obtain ⟨t, ht, hinit⟩ := perform_pending_decodeInitial (s := s.nextCycle) _ hready
  have hstep : step s = .next t := by
    rw [step_of_decodeWord hc (decodeWord_of_lt (inputWord_lt hfits)), hready, ht]
  have ⟨_, _, _, hcleared⟩ := hinit
  exact ⟨fun ci hr => hready ▸ dispatch_mem_operations hr, (listening_eq_false_iff s).mpr (.inl hready), t, hstep,
    hinit, hcleared⟩

/-- Settles O35: a register turned on has a writer in the cycle, which is a matching DISPATCH, and that one then has the
cycle to itself. -/
theorem onlyAMatchTurnsTheOutputOn : Obligations.OnlyAMatchTurnsTheOutputOn := by
  refine ⟨fun s hready hcode harmed => ?arms, fun s t hstep hon => ?only⟩
  case arms =>
    exact ⟨_, exec_dispatch_of_match ((matchFires_iff s).mpr ⟨hready, hcode, harmed⟩), rfl, rfl, rfl,
      decodeReset_decodeInitial _, rfl⟩
  case only =>
    obtain ⟨-, ci, -, hperform⟩ := step_next hstep
    obtain ⟨hmem, hmatch⟩ := perform_turns_on_by_match hperform hon
    obtain ⟨hready, hcode, harmed⟩ := (matchFires_iff _).mp hmatch
    have hready' : s.cmdReady = true := hready
    rw [hready', perform_pending_of_no_counted_tick (rst_eq_false_of_dispatch_mem hmem) hready fun _ => harmed,
      exec_dispatch_of_match hmatch] at hperform
    cases hperform
    exact ⟨hready, hcode, harmed, rfl, rfl⟩

/-- Settles O14, by whether the command matches. -/
theorem dispatchFollowsItsRule : Obligations.DispatchFollowsItsRule := by
  intro s hready
  refine ⟨fun ci hr => hready ▸ dispatch_mem_operations hr, ?_⟩
  split
  · next hmatch => exact exec_dispatch_of_match ((matchFires_iff s).mpr ⟨hready, hmatch⟩)
  · next hmiss => exact exec_dispatch_of_no_match hready hmiss

/-- Settles O16: the decode reset's frame. -/
theorem mismatchOnlyResetsTheDecoder : Obligations.MismatchOnlyResetsTheDecoder := by
  intro s hready hcode
  exact ⟨_, exec_dispatch_of_no_match hready fun ⟨h, _⟩ => hcode h, decodeReset_decodeInitial s, rfl, rfl, rfl,
    ⟨rfl, rfl, rfl⟩, fun harmed => (listening_iff _).mpr ⟨rfl, harmed⟩⟩

end Sys2Proof

/-!
PROOFS. The timer of 43_timer.md: one lemma for each case of TICK (R81 to R83), and from them the rule's pseudocode (R80).
-/

namespace Sys2Proof

open Sys2Proof.Machine

/-! ## The cases of TICK (R80) -/

/-- R81: while not armed a tick is ignored. -/
theorem exec_tick_of_not_armed {s : State} (h : s.armed = false) : exec .tick s = .next s := by
  rw [exec_tick, if_neg (Bool.eq_false_iff.mp h)]

/-- R83: the counted tick that reaches the threshold is the timeout. -/
theorem exec_tick_of_timeout {s : State} (harmed : s.armed = true)
    (hreach : s.cfg.threshold ≤ (s.elapsed + 1) % 2 ^ s.cfg.tw) : exec .tick s = .next s.fullReset := by
  rw [exec_tick, if_pos harmed, if_pos ((reachesThreshold_iff s).mpr hreach)]

/-- R82: a counted tick below the threshold counts. -/
theorem exec_tick_of_below {s : State} (harmed : s.armed = true)
    (hbelow : ¬ s.cfg.threshold ≤ (s.elapsed + 1) % 2 ^ s.cfg.tw) : exec .tick s = .next s.countTick := by
  rw [exec_tick, if_pos harmed, if_neg (mt (reachesThreshold_iff s).mp hbelow)]

/-! ## The rule -/

/-- TICK is selected by `tick` in every cycle without `rst` (R52). -/
theorem tick_mem_operations {ci : CycleInput} (d : Bool) (hr : ci.rst = false) (ht : ci.tick = true) :
    .tick ∈ ci.operations d :=
  (mem_operations_iff ci d _).mpr (.inl ((mem_selected_iff ci d _).mpr (.inr ⟨hr, .inr (.inl ⟨ht, rfl⟩)⟩)))

/-- Settles O18, one case of TICK for each branch of the pseudocode. -/
theorem tickFollowsItsRule : Obligations.TickFollowsItsRule := by
  refine ⟨fun ci d hr ht => tick_mem_operations d hr ht, fun s => ?_⟩
  split_ifs with hoff hreach
  · exact exec_tick_of_not_armed hoff
  · exact exec_tick_of_timeout (Bool.eq_true_of_not_eq_false hoff) hreach
  · exact exec_tick_of_below (Bool.eq_true_of_not_eq_false hoff) hreach

end Sys2Proof

/-!
PROOFS. The cycle of 44_cycle.md: what the equations of R86 give and what the operations of R52 leave, each in a cycle
with `rst`, in one with a counted tick and in any other, and from both that a step is the cycle rule.
-/

namespace Sys2Proof

open Sys2Proof.Machine

/-! ## The guards of R86 -/

theorem tickCounted_iff (s : State) (ci : CycleInput) :
    s.tickCounted ci = true ↔ ci.tick = true ∧ s.armed = true := by
  rw [State.tickCounted, Bool.and_eq_true]

theorem timeoutFires_of_not_counted {s : State} {ci : CycleInput} (h : s.tickCounted ci = false) :
    s.timeoutFires ci = false := by
  rw [State.timeoutFires, h, Bool.false_and]

/-- A counted tick is the timeout where the count reaches the threshold (R83). -/
theorem timeoutFires_of_counted {s : State} {ci : CycleInput} (h : s.tickCounted ci = true) :
    s.timeoutFires ci = s.reachesThreshold := by
  rw [State.timeoutFires, h, Bool.true_and]
  rfl

/-- The condition of the second case of R86's chain is `match`. -/
theorem matchFires_eq (s : State) :
    s.matchFires = (s.cmdReady && decide (s.code = s.cfg.target) && !s.armed) :=
  (Bool.and_assoc _ _ _).symm

theorem edgeFires_eq (s : State) (ci : CycleInput) : s.edgeFires ci = (ci.edgeValid && s.listening) := rfl

/-! ## The equations of R86 -/

/-- A DISPATCH or a timeout is the decode reset. -/
theorem cycleDecode_of_reset {s : State} {ci : CycleInput} (h : s.cmdReady = true ∨ s.timeoutFires ci = true) :
    cycleDecode s ci = s.decodeReset := by
  have hguard : (s.dispatchFires || s.timeoutFires ci) = true := (Bool.or_eq_true _ _).mpr h
  rw [cycleDecode, if_pos hguard]
  rfl

/-- In any other cycle only a classified EDGE writes the decode registers. -/
theorem cycleDecode_of_no_reset {s : State} {ci : CycleInput} (hready : s.cmdReady = false)
    (htimeout : s.timeoutFires ci = false) :
    cycleDecode s ci = if s.edgeFires ci then edgeOn (rawClass ci.interval) s else s := by
  simp [cycleDecode, State.dispatchFires, hready, htimeout]

/-- The decode part leaves the actuation registers as they are. -/
theorem cycleDecode_actuation (s : State) (ci : CycleInput) :
    { cycleDecode s ci with armed := s.armed, elapsed := s.elapsed, ledOut := s.ledOut } = cycleDecode s ci := by
  unfold cycleDecode
  split
  · rfl
  split
  · obtain h | ⟨h, -⟩ | ⟨h, -⟩ := edgeOn_cases (rawClass ci.interval) s <;> rw [h] <;> rfl
  · rfl

/-- `rst` overrides everything (D8). -/
theorem cycleRule_of_rst {s : State} {ci : CycleInput} (hr : ci.rst = true) : cycleRule s ci = s.fullReset := by
  rw [cycleRule, if_pos hr]
  rfl

/-- Without a counted tick the actuation registers are written by a match only. -/
theorem cycleRule_of_not_counted {s : State} {ci : CycleInput} (hr : ci.rst = false)
    (hcounted : s.tickCounted ci = false) :
    cycleRule s ci = if s.matchFires then s.arm.decodeReset else cycleDecode s ci := by
  have htimeout : s.timeoutFires ci = false := timeoutFires_of_not_counted hcounted
  simp only [cycleRule, hr, htimeout, hcounted, ← matchFires_eq, Bool.false_eq_true, if_false]
  split
  · next hmatch =>
    obtain ⟨hready, -⟩ := (matchFires_iff s).mp hmatch
    rw [cycleDecode_of_reset (.inl hready)]
    rfl
  · exact cycleDecode_actuation s ci

/-- A counted tick (R82, R83), and with it the decode reset of a DISPATCH, which the timeout contains. -/
theorem cycleRule_of_counted {s : State} {ci : CycleInput} (hr : ci.rst = false) (hcounted : s.tickCounted ci = true) :
    cycleRule s ci = if s.reachesThreshold then s.fullReset
      else if s.cmdReady then s.countTick.decodeReset else s.countTick := by
  obtain ⟨-, harmed⟩ := (tickCounted_iff s ci).mp hcounted
  have htimeout : s.timeoutFires ci = s.reachesThreshold := timeoutFires_of_counted hcounted
  have hmatch : s.matchFires = false := by simp [matchFires_eq, harmed]
  have hedge : s.edgeFires ci = false := by simp [State.edgeFires, harmed]
  simp only [cycleRule, hr, hcounted, ← matchFires_eq, hmatch, Bool.false_eq_true, if_false, if_true, htimeout]
  split_ifs with hreach hready
  · rw [cycleDecode_of_reset (.inr (htimeout.trans hreach))]
    rfl
  · rw [cycleDecode_of_reset (.inl hready)]
    rfl
  · rw [cycleDecode_of_no_reset (Bool.eq_false_iff.mpr hready) (htimeout.trans (Bool.eq_false_iff.mpr hreach)), hedge]
    rfl

/-! ## The operations of R52 -/

/-- With no command pending there is at most an EDGE and a TICK: the NOP of an idle word writes nothing (R89). -/
theorem perform_operations_of_not_pending {ci : CycleInput} (hr : ci.rst = false) (s : State) :
    perform s s (ci.operations false) =
      perform s s ((if ci.edgeValid then [.edge ci.interval] else []) ++ (if ci.tick then [.tick] else [])) := by
  rw [CycleInput.operations, perform_append_classify]
  by_cases hidle : ci.edgeValid = false ∧ ci.tick = false
  · obtain ⟨he, ht⟩ := hidle
    have hsel : ci.selected false = [.nop] := by simp [CycleInput.selected, hr, he, ht]
    rw [hsel, he, ht, perform_singleton]
    rfl
  · have hguard : (!ci.edgeValid && !ci.tick) = false := by simpa using hidle
    simp [CycleInput.selected, hr, hguard]

/-- Without a counted tick, a cycle is its DISPATCH where a command is pending, else its EDGE. -/
theorem perform_operations_of_not_counted {s : State} {ci : CycleInput} (hr : ci.rst = false)
    (hcounted : s.tickCounted ci = false) :
    perform s s (ci.operations s.cmdReady) =
      .next (if s.matchFires then s.arm.decodeReset else cycleDecode s ci) := by
  have hnotArmed (htick : ci.tick = true) : s.armed = false := by simpa [State.tickCounted, htick] using hcounted
  cases hready : s.cmdReady with
  | true =>
    rw [perform_pending_of_no_counted_tick hr hready hnotArmed, cycleDecode_of_reset (.inl hready), exec_dispatch,
      if_pos hready, State.matchFires, State.dispatchFires, hready, Bool.true_and]
  | false =>
    have htimeout : s.timeoutFires ci = false := timeoutFires_of_not_counted hcounted
    have hmatch : s.matchFires = false := by simp [State.matchFires, State.dispatchFires, hready]
    have hdrop (acc : State) : perform s acc (if ci.tick then [.tick] else []) = .next acc := by
      simpa using perform_optional_of_unchanged acc ci.tick [] fun htick => exec_tick_of_not_armed (hnotArmed htick)
    rw [perform_operations_of_not_pending hr, hmatch, cycleDecode_of_no_reset hready htimeout, edgeFires_eq]
    cases ci.edgeValid with
    | false => exact hdrop s
    | true =>
      obtain ⟨t, ht, houtside⟩ := exec_next (.edge ci.interval) s
      calc perform s s ([.edge ci.interval] ++ if ci.tick then [.tick] else [])
        _ = .next t := by rw [List.singleton_append, perform_cons ht, commit_first houtside, hdrop]
        _ = exec (.edge ci.interval) s := ht.symm
        _ = .next (if s.listening then edgeOn (rawClass ci.interval) s else s) := exec_edge _ s

/-- In a cycle with a counted tick an EDGE is discarded, and a DISPATCH adds the decode reset. -/
theorem perform_operations_of_counted {s : State} {ci : CycleInput} (hr : ci.rst = false)
    (hcounted : s.tickCounted ci = true) :
    perform s s (ci.operations s.cmdReady) = .next (if s.reachesThreshold then s.fullReset
      else if s.cmdReady then s.countTick.decodeReset else s.countTick) := by
  obtain ⟨htick, harmed⟩ := (tickCounted_iff s ci).mp hcounted
  cases hready : s.cmdReady with
  | true =>
    rw [perform_operations_of_pending hr hready, htick]
    refine (perform_tick_dispatch_of_armed hready harmed).trans ?_
    split <;> rfl
  | false =>
    rw [perform_operations_of_not_pending hr,
      perform_optional_of_unchanged _ _ _ fun _ => exec_edge_of_not_listening _ (.inr harmed), htick, if_pos rfl,
      perform_singleton, exec_tick, if_pos harmed]
    rfl

/-! ## The rule -/

/-- The operations that the inputs and the pre-state select leave the post-state of the cycle rule, in every state. -/
theorem perform_operations (s : State) (ci : CycleInput) :
    perform s s (ci.operations s.cmdReady) = .next (cycleRule s ci) := by
  cases hr : ci.rst with
  | true => rw [perform_operations_of_rst hr, cycleRule_of_rst hr]
  | false =>
    cases hcounted : s.tickCounted ci with
    | true => rw [perform_operations_of_counted hr hcounted, cycleRule_of_counted hr hcounted]
    | false => rw [perform_operations_of_not_counted hr hcounted, cycleRule_of_not_counted hr hcounted]

/-- Settles O24: a step performs the selected operations from the state with the inputs moved on. -/
theorem stepIsTheCycleRule : Obligations.StepIsTheCycleRule :=
  fun s ci hc h => ⟨(step_of_decodeWord hc h).trans (perform_operations s.nextCycle ci), rfl⟩

end Sys2Proof

/-!
PROOFS. RESET of 70_reset_and_hazards.md (R107): the operation's post-state, and a cycle with `rst` as that operation alone.
-/

namespace Sys2Proof

open Sys2Proof.Machine

/-- RESET completes in every state (R107). -/
theorem exec_reset (s : State) : exec .reset s = .next s.fullReset := rfl

/-- The full reset gives every register its reset value, whatever the pre-state. -/
theorem fullReset_isResetState (s : State) : s.fullReset.IsResetState := ⟨rfl, rfl, rfl, rfl, rfl, rfl, rfl⟩

/-- A cycle under a word with `rst = 1` is RESET, from the state with the inputs moved on. -/
theorem step_withInput_of_rst {s : State} {w : Nat} (hc : s.cfg.Legal) (hw : w < 2 ^ (s.cfg.iw + 3))
    (hr : w.testBit (s.cfg.iw + 2) = true) : step (s.withInput w) = .next s.nextCycle.fullReset :=
  (step_of_decodeWord (s := s.withInput w) hc (decodeWord_of_lt hw)).trans (perform_operations_of_rst hr s.nextCycle _)

/-- Settles O20: the post-state of RESET, and that a cycle with `rst = 1` is that operation. -/
theorem resetLeavesTheResetState : Obligations.ResetLeavesTheResetState :=
  ⟨exec_reset, fun s _ hc hw hr => ⟨_, step_withInput_of_rst hc hw hr, fullReset_isResetState s.nextCycle, rfl⟩⟩

end Sys2Proof

/-!
PROOFS. The encoder of 30_encoding.md: the word of an operation's row, decoded again (R51, R52), and the stimulus
statements (R58, R59).
-/

namespace Sys2Proof

open Sys2Proof.Machine

/-! ## The encoder (R51, R52) -/

/-- The inputs of a well-formed operation's row fit the ports: a row without an interval leaves it at 0 (log 17). -/
theorem inputs_interval_lt {c : Config} {i : Instr} (h : i.WellFormed c) : i.inputs.interval < 2 ^ c.iw := by
  cases i with
  | edge v => exact h
  | classify e v => exact h
  | reset | tick | dispatch | nop => exact Nat.two_pow_pos c.iw

/-- The word of a row decodes to what the row's inputs and `cmd_ready` select. -/
theorem decode_encode {c : Config} {i : Instr} (h : i.WellFormed c) (d : Bool) :
    decode c.iw d (encode c.iw i) = .ok (i.inputs.operations d) :=
  decode_of_decodeWord d (decodeWord_word (inputs_interval_lt h))

/-- Settles O4: for each row, what its inputs select under the values of `cmd_ready` for which it stands. -/
theorem decodeOfEncodeSelectsTheOperation : Obligations.DecodeOfEncodeSelectsTheOperation := by
  intro c i h
  have hdec (d : Bool) : decode c.iw d (encode c.iw i) = .ok (i.inputs.operations d) := decode_encode h d
  cases i with
  | reset => exact hdec
  | edge v => exact ⟨hdec false, hdec true⟩
  | tick => exact ⟨hdec false, hdec true⟩
  | dispatch => exact hdec true
  | nop => exact hdec false
  | classify e v => exact hdec

/-! ## The spec's own words and stimulus statements (R52, R58, R59) -/

/-- Settles O1. -/
theorem specWordsDecodeAsWritten : Obligations.SpecWordsDecodeAsWritten :=
  ⟨rfl, rfl, rfl, rfl, rfl, rfl, rfl, rfl⟩

/-- Settles O5. -/
theorem stimulusNotationExpands : Obligations.StimulusNotationExpands := by
  refine ⟨by decide, by decide, by decide, fun n => ?edge, fun n => ?edgeTick, fun k => rfl, fun k => rfl, fun b => rfl,
    fun c => rfl⟩
  case edge => simp [Statement.word, Statement.inputs, CycleInput.word]
  case edgeTick => simp [Statement.word, Statement.inputs, CycleInput.word]

end Sys2Proof

/-!
PROOFS. What a cycle can do to the state (44_cycle.md R86), as one case analysis; the invariants V1 to V7 of 10_state.md
R31, the register ranges, and what else holds of every step.
-/

namespace Sys2Proof

open Sys2Proof.Machine

/-! ## The effects of a cycle -/

/-- The post-states of a cycle from `s` under the inputs `ci`, by what takes effect in it, each with its guards. -/
inductive CycleEffect (s : State) (ci : CycleInput) : State → Prop where
  | reset (hr : ci.rst = true) : CycleEffect s ci s.fullReset
  | timeout (hr : ci.rst = false) (htick : ci.tick = true) (harmed : s.armed = true)
      (hreach : s.cfg.threshold ≤ (s.elapsed + 1) % 2 ^ s.cfg.tw) : CycleEffect s ci s.fullReset
  | count (hr : ci.rst = false) (harmed : s.armed = true)
      (hbelow : ¬ s.cfg.threshold ≤ (s.elapsed + 1) % 2 ^ s.cfg.tw) (hready : s.cmdReady = false) :
      CycleEffect s ci s.countTick
  | countAndDiscard (hr : ci.rst = false) (harmed : s.armed = true) (hready : s.cmdReady = true) :
      CycleEffect s ci s.countTick.decodeReset
  | arm (hr : ci.rst = false) (hready : s.cmdReady = true) (hcode : s.code = s.cfg.target) (harmed : s.armed = false) :
      CycleEffect s ci s.arm.decodeReset
  | discard (hr : ci.rst = false) (hready : s.cmdReady = true) : CycleEffect s ci s.decodeReset
  | start (hr : ci.rst = false) (hedge : ci.edgeValid = true) (hl : s.listening = true) (hs : s.startSeen = false)
      (hclass : rawClass ci.interval = .startBit) : CycleEffect s ci s.acceptStart
  | sample (hr : ci.rst = false) (hedge : ci.edgeValid = true) (hl : s.listening = true) (hs : s.startSeen = true)
      (hb : s.bitsRem ≠ 0) : CycleEffect s ci (s.sampleBit (decide (440 < ci.interval ∧ ci.interval < 460)))
  | stay (hr : ci.rst = false) (hready : s.cmdReady = false)
      (hquiet : ci.edgeValid = true → s.listening = true → s.startSeen = true → s.bitsRem = 0) : CycleEffect s ci s

/-- In a cycle without `rst` a classified edge has the cycle to itself (R87). -/
theorem cycleRule_of_edge {s : State} {ci : CycleInput} (hr : ci.rst = false) (hedge : ci.edgeValid = true)
    (hl : s.listening = true) : .next (cycleRule s ci) = exec (.edge ci.interval) s := by
  obtain ⟨hready, harmed⟩ := (listening_iff s).mp hl
  have hcounted : s.tickCounted ci = false := by simp [State.tickCounted, harmed]
  have hmatch : s.matchFires = false := by simp [matchFires_eq, hready]
  have hfires : s.edgeFires ci = true := by simp [edgeFires_eq, hedge, hl]
  rw [cycleRule_of_not_counted hr hcounted, hmatch, cycleDecode_of_no_reset hready (timeoutFires_of_not_counted hcounted),
    hfires, exec_edge, if_pos hl]
  rfl

/-- A cycle without a RESET, a pending command, a counted tick or a classified edge changes nothing (R89). -/
theorem cycleRule_of_quiet {s : State} {ci : CycleInput} (hr : ci.rst = false) (hready : s.cmdReady = false)
    (hcounted : s.tickCounted ci = false) (hfires : s.edgeFires ci = false) : cycleRule s ci = s := by
  have hmatch : s.matchFires = false := by simp [matchFires_eq, hready]
  rw [cycleRule_of_not_counted hr hcounted, hmatch, cycleDecode_of_no_reset hready (timeoutFires_of_not_counted hcounted),
    hfires]
  rfl

/-- With a classified edge: a start accept, a sampled bit, or nothing (R68 to R71). -/
theorem cycleEffect_of_edge {s : State} {ci : CycleInput} (hr : ci.rst = false) (hedge : ci.edgeValid = true)
    (hl : s.listening = true) : CycleEffect s ci (cycleRule s ci) := by
  have hrule := cycleRule_of_edge hr hedge hl
  obtain ⟨hready, -⟩ := (listening_iff s).mp hl
  by_cases hs : s.startSeen = false
  · rw [exec_edge_of_awaitingStart _ hl hs] at hrule
    split_ifs at hrule with hband <;> rw [Host.Outcome.next.inj hrule]
    · exact .start hr hedge hl hs ((rawClass_eq_startBit _).mpr hband)
    · exact .stay hr hready fun _ _ hseen => absurd hseen (by simp [hs])
  rw [Bool.not_eq_false] at hs
  by_cases hb : s.bitsRem = 0
  · rw [exec_edge_of_samplingZero _ hl hs hb] at hrule
    rw [Host.Outcome.next.inj hrule]
    exact .stay hr hready fun _ _ _ => hb
  · rw [exec_edge_of_sampling _ hl hs hb] at hrule
    rw [Host.Outcome.next.inj hrule]
    exact .sample hr hedge hl hs hb

/-- Without a counted tick: the dispatch of a pending command, an edge, or nothing. -/
theorem cycleEffect_of_not_counted {s : State} {ci : CycleInput} (hr : ci.rst = false)
    (hcounted : s.tickCounted ci = false) : CycleEffect s ci (cycleRule s ci) := by
  cases hready : s.cmdReady with
  | true =>
    rw [cycleRule_of_not_counted hr hcounted, cycleDecode_of_reset (.inl hready)]
    split_ifs with hmatch
    · obtain ⟨-, hcode, harmed⟩ := (matchFires_iff s).mp hmatch
      exact .arm hr hready hcode harmed
    · exact .discard hr hready
  | false =>
    cases hfires : s.edgeFires ci with
    | true =>
      rw [edgeFires_eq, Bool.and_eq_true] at hfires
      obtain ⟨hedge, hl⟩ := hfires
      exact cycleEffect_of_edge hr hedge hl
    | false =>
      rw [cycleRule_of_quiet hr hready hcounted hfires]
      refine .stay hr hready fun hedge hl _ => ?_
      simp [edgeFires_eq, hedge, hl] at hfires

/-- What a cycle can do, from every state and under every input. -/
theorem cycleRule_effect (s : State) (ci : CycleInput) : CycleEffect s ci (cycleRule s ci) := by
  cases hr : ci.rst with
  | true =>
    rw [cycleRule_of_rst hr]
    exact .reset hr
  | false =>
    cases hcounted : s.tickCounted ci with
    | false => exact cycleEffect_of_not_counted hr hcounted
    | true =>
      obtain ⟨htick, harmed⟩ := (tickCounted_iff s ci).mp hcounted
      rw [cycleRule_of_counted hr hcounted]
      split_ifs with hreach hready
      · exact .timeout hr htick harmed ((reachesThreshold_iff s).mp hreach)
      · exact .countAndDiscard hr harmed hready
      · exact .count hr harmed (mt (reachesThreshold_iff s).mpr hreach) (Bool.eq_false_iff.mpr hready)

/-- What a step under known inputs can do. -/
theorem step_effect {s t : State} {ci : CycleInput} (hdec : decodeWord s.cfg.iw s.inputWord = .ok ci)
    (hstep : step s = .next t) : CycleEffect s.nextCycle ci t := by
  have hrule := (stepIsTheCycleRule s ci (legal_of_step hstep) hdec).1
  rw [Host.Outcome.next.inj (hstep.symm.trans hrule)]
  exact cycleRule_effect s.nextCycle ci

/-- What a step can do. -/
theorem exists_step_effect {s t : State} (hstep : step s = .next t) :
    s.cfg.Legal ∧ ∃ ci, decodeWord s.cfg.iw s.inputWord = .ok ci ∧ CycleEffect s.nextCycle ci t := by
  obtain ⟨hc, ci, hdec, -⟩ := step_next hstep
  exact ⟨hc, ci, hdec, step_effect hdec hstep⟩

/-- A cycle writes registers only. -/
theorem CycleEffect.sameOutside {s t : State} {ci : CycleInput} (h : CycleEffect s ci t) : s.SameOutside t := by
  cases h <;> exact ⟨rfl, rfl, rfl⟩

/-! ## The bits of a sampled code (R69) -/

theorem toNat_ne_zero {n : BitCount} (h : n ≠ 0) : n.toNat ≠ 0 := fun h0 => h (BitVec.eq_of_toNat_eq h0)

/-- The mask of `Sampling(n)` is bit `n - 1`. -/
theorem getLsbD_sampleMask {n : BitCount} (h : n ≠ 0) (k : Nat) :
    (sampleMask n).getLsbD k = decide (k + 1 = n.toNat) := by
  have hn : n.toNat < 8 := n.isLt
  have hpos : n.toNat ≠ 0 := toNat_ne_zero h
  rw [sampleMask_of_ne_zero h, BitVec.getLsbD_shiftLeft, BitVec.getLsbD_one, Bool.eq_iff_iff]
  simp only [Bool.and_eq_true, Bool.not_eq_true', decide_eq_true_eq, decide_eq_false_iff_not]
  omega

/-- Bit `n - 1` becomes 1 on a One; every bit keeps its value otherwise. -/
theorem sampleBit_getLsbD {s : State} (one : Bool) (hb : s.bitsRem ≠ 0) (k : Nat) :
    (s.sampleBit one).code.getLsbD k = (s.code.getLsbD k || (one && decide (k + 1 = s.bitsRem.toNat))) := by
  cases one <;> simp [getLsbD_sampleMask hb]

/-- Settles O11: a sampling EDGE is a sampled bit, which writes `code` at one position. -/
theorem samplingTouchesOneCodeBit : Obligations.SamplingTouchesOneCodeBit := by
  intro s t v hl hs hb ht
  rw [exec_edge_of_sampling v hl hs hb] at ht
  cases ht
  have hpos : s.bitsRem.toNat ≠ 0 := toNat_ne_zero hb
  refine ⟨?count, fun k hk => ?other, ?sampled, hs, rfl, rfl, rfl, rfl, rfl, rfl⟩
  case count =>
    rw [State.sampleBit_bitsRem, toNat_sub_one_of_ne_zero hb]
    omega
  case other => rw [sampleBit_getLsbD _ hb, decide_eq_false hk, Bool.and_false, Bool.or_false]
  case sampled =>
    have hk : s.bitsRem.toNat - 1 + 1 = s.bitsRem.toNat := by omega
    rw [sampleBit_getLsbD _ hb, decide_eq_true hk, Bool.and_true]

/-! ## The invariants V1 to V7 (R31) -/

/-- While the decoder is at `Initial` the invariants ask of the actuation registers only. -/
theorem inv_of_decodeInitial {t : State} (hd : t.DecodeInitial) (hcount : t.V6) (hled : t.V7) : t.Inv := by
  obtain ⟨hs, hb, hcode, hready⟩ := hd
  refine ⟨fun _ => ⟨hb, hcode, hready⟩, ?v2, fun h => ?v3, fun h => ?v4, fun _ => ⟨hs, hb, hcode, hready⟩, hcount, hled⟩
  case v2 => simp [State.V2, hready, hs]
  case v3 => simp [hs] at h
  case v4 => simp [hready] at h

/-- In mid-frame, and while a command is pending, the output is not armed. -/
theorem inv_of_startSeen {t : State} (hs : t.startSeen = true) (harmed : t.armed = false)
    (hready : t.cmdReady = true ↔ t.bitsRem = 0) (hcode : t.V3) (hcount : t.elapsed = 0) (hled : t.ledOut = false) :
    t.Inv := by
  refine ⟨fun h => ?v1, ?v2, hcode, fun _ => harmed, fun h => ?v5, ⟨fun _ => hcount, fun h => ?v6⟩, hled.trans harmed.symm⟩
  case v1 => simp [hs] at h
  case v2 => simp [State.V2, hs, hready]
  case v5 => simp [harmed] at h
  case v6 => simp [harmed] at h

/-- The reset values hold the invariants. -/
theorem inv_of_isResetState {t : State} (h : t.IsResetState) : t.Inv := by
  obtain ⟨hs, hb, hcode, hready, harmed, hcount, hled⟩ := h
  exact inv_of_decodeInitial ⟨hs, hb, hcode, hready⟩ ⟨fun _ => hcount, by simp [harmed]⟩ (hled.trans harmed.symm)

/-- Under the invariants a start bit has been seen only while not armed. -/
theorem armed_eq_false_of_startSeen {s : State} (h : s.Inv) (hs : s.startSeen = true) : s.armed = false := by
  obtain ⟨-, -, -, -, hinitial, -⟩ := h
  by_contra harmed
  simp [(hinitial (Bool.eq_true_of_not_eq_false harmed)).1] at hs

/-- A start accept keeps the invariants: before it `code` is 0 (V1, D11). -/
theorem acceptStart_inv {s : State} (h : s.Inv) (hl : s.listening = true) (hs : s.startSeen = false) :
    s.acceptStart.Inv := by
  obtain ⟨hinitial, -, -, -, -, ⟨hcount, -⟩, hled⟩ := h
  obtain ⟨hready, harmed⟩ := (listening_iff s).mp hl
  obtain ⟨-, hcode, -⟩ := hinitial hs
  exact inv_of_startSeen rfl harmed (by simp [hready]) (by simp [hcode]) (hcount harmed) (hled.trans harmed)

/-- A sampled bit keeps the invariants: it is written above the positions still to be sampled, and below bit 7. -/
theorem sampleBit_inv {s : State} (one : Bool) (h : s.Inv) (hl : s.listening = true) (hs : s.startSeen = true)
    (hb : s.bitsRem ≠ 0) : (s.sampleBit one).Inv := by
  obtain ⟨-, -, hclear, -, -, ⟨hcount, -⟩, hled⟩ := h
  obtain ⟨hready, harmed⟩ := (listening_iff s).mp hl
  obtain ⟨hbelow, htop⟩ := hclear hs
  have hn : s.bitsRem.toNat < 8 := s.bitsRem.isLt
  refine inv_of_startSeen hs harmed ?ready (fun _ => ⟨fun k hk => ?below, ?top⟩) (hcount harmed) (hled.trans harmed)
  case ready =>
    rw [sampleBit_cmdReady_of_not_ready one hready, decide_eq_true_iff]
    exact sub_eq_zero.symm
  case below =>
    rw [State.sampleBit_bitsRem, toNat_sub_one_of_ne_zero hb] at hk
    have hk' : k + 1 ≠ s.bitsRem.toNat := by omega
    rw [sampleBit_getLsbD one hb, hbelow k (by omega), decide_eq_false hk', Bool.and_false, Bool.or_false]
  case top =>
    have h7 : 7 + 1 ≠ s.bitsRem.toNat := by omega
    rw [sampleBit_getLsbD one hb, htop, decide_eq_false h7, Bool.and_false, Bool.or_false]

/-- A counted tick below the threshold keeps the invariants. -/
theorem countTick_inv {s : State} (h : s.Inv) (harmed : s.armed = true)
    (hbelow : ¬ s.cfg.threshold ≤ (s.elapsed + 1) % 2 ^ s.cfg.tw) : s.countTick.Inv := by
  obtain ⟨-, -, -, -, hinitial, -, hled⟩ := h
  exact inv_of_decodeInitial (hinitial harmed) ⟨by simp [harmed], fun _ => Nat.lt_of_not_le hbelow⟩ hled

/-- A match keeps the invariants: the count starts below the threshold. -/
theorem arm_decodeReset_inv {s : State} (hc : s.cfg.Legal) : s.arm.decodeReset.Inv := by
  obtain ⟨-, -, hthreshold, -⟩ := hc
  exact inv_of_decodeInitial (decodeReset_decodeInitial _) ⟨by simp, fun _ => hthreshold⟩ rfl

/-- Every effect of a cycle keeps the invariants. -/
theorem CycleEffect.inv {s t : State} {ci : CycleInput} (h : CycleEffect s ci t) (hc : s.cfg.Legal) (hinv : s.Inv) :
    t.Inv := by
  have ⟨_, _, _, hexclusive, _, hcount, hled⟩ := hinv
  cases h with
  | reset | timeout => exact inv_of_isResetState (fullReset_isResetState s)
  | count _ harmed hbelow => exact countTick_inv hinv harmed hbelow
  | countAndDiscard _ harmed hready => simp [hexclusive hready] at harmed
  | arm => exact arm_decodeReset_inv hc
  | discard => exact inv_of_decodeInitial (decodeReset_decodeInitial s) hcount hled
  | start _ _ hl hs => exact acceptStart_inv hinv hl hs
  | sample _ _ hl hs hb => exact sampleBit_inv _ hinv hl hs hb
  | stay => exact hinv

/-- Settles O32, by what a step can do. -/
theorem stepKeepsTheInvariants : Obligations.StepKeepsTheInvariants := by
  intro s t hinv hstep
  obtain ⟨hc, ci, -, heffect⟩ := exists_step_effect hstep
  exact heffect.inv hc hinv

/-- Settles O31. -/
theorem invariantsHoldAfterReset : Obligations.InvariantsHoldAfterReset := by
  have hlegal : State.reset.cfg.Legal := by decide
  have hreset : State.reset.IsResetState := ⟨rfl, rfl, rfl, rfl, rfl, rfl, rfl⟩
  exact ⟨hreset, inv_of_isResetState hreset, ⟨hlegal, Nat.two_pow_pos _, List.forall_mem_nil _⟩,
    fun _ _ h => inv_of_isResetState h⟩

/-! ## The ranges (R15, R27) -/

/-- `elapsed` is written with 0 or modulo `2^TW` only. -/
theorem CycleEffect.elapsed_lt {s t : State} {ci : CycleInput} (h : CycleEffect s ci t) (hs : s.elapsed < 2 ^ s.cfg.tw) :
    t.elapsed < 2 ^ s.cfg.tw := by
  have hpos : 0 < 2 ^ s.cfg.tw := Nat.two_pow_pos _
  cases h with
  | reset | timeout | arm => exact hpos
  | count | countAndDiscard => exact Nat.mod_lt _ hpos
  | discard | start | sample | stay => exact hs

/-- Settles O33. -/
theorem stepKeepsTheRanges : Obligations.StepKeepsTheRanges := by
  intro s t ⟨hc, helapsed, hfits⟩ hstep
  obtain ⟨-, ci, -, heffect⟩ := exists_step_effect hstep
  obtain ⟨hcfg, hstimulus, -⟩ := heffect.sameOutside
  have hcfg' : t.cfg = s.cfg := hcfg
  refine ⟨⟨hcfg' ▸ hc, hcfg' ▸ heffect.elapsed_lt helapsed, fun w hw => ?_⟩, hcfg'⟩
  rw [hstimulus] at hw
  exact hcfg' ▸ hfits w (List.mem_of_mem_drop hw)

/-- In range a step has a next state. -/
theorem step_completes {s : State} (h : s.InRange) : ∃ t, step s = .next t := by
  obtain ⟨hc, -, hfits⟩ := h
  exact ⟨_, (stepIsTheCycleRule s _ hc (decodeWord_of_lt (inputWord_lt hfits))).1⟩

/-- Settles O30, by induction on the number of cycles. -/
theorem everyNumberOfCyclesCompletes : Obligations.EveryNumberOfCyclesCompletes := by
  intro n
  induction n with
  | zero => exact fun s h => ⟨s, rfl, h, rfl⟩
  | succ n ih =>
    intro s h
    obtain ⟨t, hstep⟩ := step_completes h
    obtain ⟨ht, hcfg⟩ := stepKeepsTheRanges s t h hstep
    obtain ⟨u, hu, hrange, hcfg'⟩ := ih t ht
    exact ⟨u, (cycles_succ hstep).trans hu, hrange, hcfg'.trans hcfg⟩

/-! ## The decode state machine (R24, R25) -/

theorem decodeState_of_pending {s : State} (hready : s.cmdReady = true) : s.decodeState = .complete := by
  rw [State.decodeState, if_pos hready]

theorem decodeState_of_awaiting {s : State} (hready : s.cmdReady = false) (hs : s.startSeen = false) :
    s.decodeState = .awaitingStart := by
  simp [State.decodeState, hready, hs]

theorem decodeState_of_sampling {s : State} (hready : s.cmdReady = false) (hs : s.startSeen = true) :
    s.decodeState = .sampling s.bitsRem := by
  simp [State.decodeState, hready, hs]

theorem decodeState_of_decodeInitial {s : State} (h : s.DecodeInitial) : s.decodeState = .awaitingStart := by
  obtain ⟨hs, -, -, hready⟩ := h
  exact decodeState_of_awaiting hready hs

/-- From Complete every cycle leads to AwaitingStart (R79). -/
theorem CycleEffect.decodeState_after_complete {s t : State} {ci : CycleInput} (h : CycleEffect s ci t)
    (hready : s.cmdReady = true) : t.decodeState = .awaitingStart := by
  cases h with
  | reset | timeout | countAndDiscard | arm | discard => exact decodeState_of_decodeInitial (decodeReset_decodeInitial _)
  | count _ _ _ hidle => simp [hready] at hidle
  | start _ _ hl | sample _ _ hl => simp [State.listening, hready] at hl
  | stay _ hidle => simp [hready] at hidle

/-- From AwaitingStart only a start accept leads away (R68). -/
theorem CycleEffect.decodeState_after_awaitingStart {s t : State} {ci : CycleInput} (h : CycleEffect s ci t)
    (hready : s.cmdReady = false) (hs : s.startSeen = false) :
    t.decodeState = .awaitingStart ∨
      (t.decodeState = .sampling 7 ∧ ci.edgeValid = true ∧ rawClass ci.interval = .startBit) := by
  cases h with
  | reset | timeout | countAndDiscard | arm | discard =>
    exact .inl (decodeState_of_decodeInitial (decodeReset_decodeInitial _))
  | count | stay => exact .inl (decodeState_of_awaiting hready hs)
  | start _ hedge _ _ hclass => exact .inr ⟨decodeState_of_sampling hready rfl, hedge, hclass⟩
  | sample _ _ _ hseen => simp [hs] at hseen

/-- From Sampling(n) an edge leads to Sampling(n - 1), or to Complete from Sampling(1) (R69, R70). -/
theorem decodeState_sampleBit {s : State} (one : Bool) (hready : s.cmdReady = false) (hs : s.startSeen = true) :
    (s.bitsRem ≠ 1 ∧ (s.sampleBit one).decodeState = .sampling (s.bitsRem - 1)) ∨
      (s.bitsRem = 1 ∧ (s.sampleBit one).decodeState = .complete) := by
  have hcmd := sampleBit_cmdReady_of_not_ready one hready
  by_cases hlast : s.bitsRem = 1
  · exact .inr ⟨hlast, decodeState_of_pending (hcmd.trans (decide_eq_true hlast))⟩
  · exact .inl ⟨hlast, decodeState_of_sampling (hcmd.trans (decide_eq_false hlast)) hs⟩

/-- Under the invariants a cycle without `rst` leaves Sampling(n) as it is, or samples a bit of its edge. -/
theorem CycleEffect.eq_after_sampling {s t : State} {ci : CycleInput} (h : CycleEffect s ci t) (hinv : s.Inv)
    (hready : s.cmdReady = false) (hs : s.startSeen = true) :
    (ci.rst = true ∧ t = s.fullReset) ∨ (ci.rst = false ∧ ci.edgeValid = false ∧ t = s) ∨
      (ci.rst = false ∧ ci.edgeValid = true ∧ ∃ one, t = s.sampleBit one) := by
  have harmed : s.armed = false := armed_eq_false_of_startSeen hinv hs
  obtain ⟨-, hpending, -⟩ := hinv
  cases h with
  | reset hr => exact .inl ⟨hr, rfl⟩
  | timeout _ _ hon | count _ hon | countAndDiscard _ hon => simp [harmed] at hon
  | arm _ hon | discard _ hon => simp [hready] at hon
  | start _ _ _ hnone => simp [hs] at hnone
  | sample hr hedge => exact .inr (.inr ⟨hr, hedge, _, rfl⟩)
  | stay hr _ hquiet =>
    refine .inr (.inl ⟨hr, Bool.eq_false_iff.mpr fun hedge => ?_, rfl⟩)
    have hzero : s.bitsRem = 0 := hquiet hedge ((listening_iff s).mpr ⟨hready, harmed⟩) hs
    exact absurd (hpending.mpr ⟨hs, hzero⟩) (by simp [hready])

/-- Settles O34, one lemma for each decode state of the pre-state. -/
theorem decodeStateMovesAlongItsEdges : Obligations.DecodeStateMovesAlongItsEdges := by
  intro s t ci hinv hdec hstep
  have heffect := step_effect hdec hstep
  cases hready : s.cmdReady with
  | true =>
    rw [decodeState_of_pending hready]
    exact heffect.decodeState_after_complete hready
  | false =>
    cases hs : s.startSeen with
    | false =>
      rw [decodeState_of_awaiting hready hs]
      exact heffect.decodeState_after_awaitingStart hready hs
    | true =>
      rw [decodeState_of_sampling hready hs]
      obtain ⟨hr, rfl⟩ | ⟨hr, hedge, rfl⟩ | ⟨hr, hedge, one, rfl⟩ := heffect.eq_after_sampling hinv hready hs
      · exact .inl ⟨hr, decodeState_of_decodeInitial (decodeReset_decodeInitial _)⟩
      · exact .inr (.inl ⟨hr, hedge, decodeState_of_sampling hready hs⟩)
      · obtain ⟨hmore, hstate⟩ | ⟨hlast, hstate⟩ := decodeState_sampleBit (s := s.nextCycle) one hready hs
        · exact .inr (.inr (.inl ⟨hr, hedge, hmore, hstate⟩))
        · exact .inr (.inr (.inr ⟨hr, hedge, hlast, hstate⟩))

/-! ## Who turns the output off, and who raises `cmd_ready` (R19, R20) -/

/-- Settles O36: every effect but the two full resets keeps `armed` and `led_out` where they are on. -/
theorem onlyTimeoutOrResetTurnsTheOutputOff : Obligations.OnlyTimeoutOrResetTurnsTheOutputOff := by
  intro s t ci hdec hstep hoff
  cases step_effect hdec hstep with
  | reset hr => exact .inl hr
  | timeout _ htick harmed hreach => exact .inr ⟨htick, harmed, hreach, fullReset_isResetState _⟩
  | count | countAndDiscard | arm | discard | start | sample | stay => simp at hoff

/-- Settles O37: of the effects only a sampled bit can raise `cmd_ready`. -/
theorem commandBecomesPendingOnlyOnTheLastBit : Obligations.CommandBecomesPendingOnlyOnTheLastBit := by
  intro s t ci hdec hstep hready hraised
  cases step_effect hdec hstep with
  | reset | timeout | countAndDiscard | arm | discard => simp at hraised
  | count | start | stay => simp [hready] at hraised
  | sample hr hedge hl hs hb =>
    obtain ⟨-, harmed⟩ := (listening_iff _).mp hl
    have hlast : s.bitsRem = 1 :=
      of_decide_eq_true ((sampleBit_cmdReady_of_not_ready (s := s.nextCycle) _ hready).symm.trans hraised)
    exact ⟨hr, hedge, harmed, hs, hlast, sub_eq_zero.mpr hlast⟩

/-! ## A `TARGET` that no command matches (R78) -/

/-- A property that every step keeps holds after every number of cycles. -/
theorem cycles_keep {P : State → Prop} (hkeep : ∀ s t, P s → step s = .next t → P t) {n : Nat} {s t : State} (h : P s)
    (hrun : cycles n s = .next t) : P t := by
  induction n generalizing s with
  | zero =>
    cases hrun
    exact h
  | succ n ih =>
    cases hstep : step s with
    | next u =>
      rw [cycles_succ hstep] at hrun
      exact ih (hkeep s u h hstep) hrun
    | fault r => cases r
    | refused r => simp [cycles, hstep] at hrun

/-- The invariants, an output that is off, and a `TARGET` with bit 7 set. -/
def DarkWithHighTarget (s : State) : Prop := s.Inv ∧ s.cfg.target.getLsbD 7 = true ∧ s.ledOut = false

/-- Under the invariants a pending command has bit 7 clear (V2, V3). -/
theorem code_getLsbD_seven_of_pending {s : State} (h : s.Inv) (hready : s.cmdReady = true) :
    s.code.getLsbD 7 = false := by
  obtain ⟨-, hpending, hclear, -⟩ := h
  exact (hclear (hpending.mp hready).1).2

/-- Only a match would light the output, and none can come. -/
theorem darkWithHighTarget_step {s t : State} (h : DarkWithHighTarget s) (hstep : step s = .next t) :
    DarkWithHighTarget t := by
  obtain ⟨hinv, htarget, hdark⟩ := h
  obtain ⟨-, ci, -, heffect⟩ := exists_step_effect hstep
  have hcfg : t.cfg = s.cfg := heffect.sameOutside.1
  refine ⟨stepKeepsTheInvariants s t hinv hstep, hcfg ▸ htarget, Bool.eq_false_iff.mpr fun hlit => ?_⟩
  obtain ⟨hready, hcode, -⟩ := onlyAMatchTurnsTheOutputOn.2 s t hstep (.inr ⟨hdark, hlit⟩)
  have hclear := code_getLsbD_seven_of_pending hinv hready
  rw [hcode, htarget] at hclear
  cases hclear

/-- Settles O38. -/
theorem highTargetNeverLightsTheOutput : Obligations.HighTargetNeverLightsTheOutput := by
  intro n s t hinv htarget hdark hrun
  have ⟨_, _, hdark'⟩ := cycles_keep (fun _ _ => darkWithHighTarget_step) ⟨hinv, htarget, hdark⟩ hrun
  exact hdark'

end Sys2Proof

/-!
PROOFS. The operations of a cycle beside one another (44_cycle.md R87, R88): what each may write (10_state.md section 1),
that no two of them conflict, that their order is free, and which one a reachable cycle amounts to (R31 V8).
-/

namespace Sys2Proof

open Sys2Proof.Machine

/-! ## What an operation may write (10_state.md section 1) -/

/-- What an operation can do, with the guards under which it does it; else it leaves the state as it is. -/
inductive ExecEffect (s : State) : Instr → State → Prop where
  | reset : ExecEffect s .reset s.fullReset
  | start (v : Nat) (hl : s.listening = true) : ExecEffect s (.edge v) s.acceptStart
  | sample (v : Nat) (one : Bool) (hl : s.listening = true) : ExecEffect s (.edge v) (s.sampleBit one)
  | timeout (harmed : s.armed = true) (hreach : s.cfg.threshold ≤ (s.elapsed + 1) % 2 ^ s.cfg.tw) :
      ExecEffect s .tick s.fullReset
  | count (harmed : s.armed = true) : ExecEffect s .tick s.countTick
  | arm (hready : s.cmdReady = true) (hcode : s.code = s.cfg.target) (harmed : s.armed = false) :
      ExecEffect s .dispatch s.arm.decodeReset
  | discard (hready : s.cmdReady = true) : ExecEffect s .dispatch s.decodeReset
  | none (i : Instr) : ExecEffect s i s

/-- Every outcome of an operation is one of those. -/
theorem exec_effect {i : Instr} {s t : State} (h : exec i s = .next t) : ExecEffect s i t := by
  cases i with
  | reset =>
    cases h
    exact .reset
  | edge v =>
    rw [exec_edge] at h
    cases h
    split_ifs with hl
    · obtain hedge | ⟨hedge, -⟩ | ⟨hedge, -⟩ := edgeOn_cases (rawClass v) s <;> rw [hedge]
      · exact .none _
      · exact .start v hl
      · exact .sample v _ hl
    · exact .none _
  | tick =>
    rw [exec_tick] at h
    cases h
    split_ifs with harmed hreach
    · exact .timeout harmed ((reachesThreshold_iff s).mp hreach)
    · exact .count harmed
    · exact .none _
  | dispatch =>
    rw [exec_dispatch] at h
    cases h
    split_ifs with hready hmatch
    · obtain ⟨hcode, harmed⟩ := (codeMatches_iff s).mp hmatch
      exact .arm hready hcode harmed
    · exact .discard hready
    · exact .none _
  | nop | classify =>
    cases h
    exact .none _

/-- Settles O22: each effect against the register table. -/
theorem registersAreWrittenOnlyByTheirOperations : Obligations.RegistersAreWrittenOnlyByTheirOperations := by
  intro i s t h
  obtain ⟨t', ht', houtside⟩ := exec_next i s
  cases h.symm.trans ht'
  refine ⟨houtside, ?_⟩
  cases exec_effect h with
  | reset => simp
  | start | sample => simp
  | timeout harmed hreach => simp [harmed, hreach]
  | count harmed => simp [harmed]
  | arm hready hcode harmed => simp [hready, hcode, harmed]
  | discard hready => simp [hready]
  | none => simp

/-- Settles O15: DISPATCH does nothing unless a command is pending. -/
theorem unselectedDispatchWritesNothing : Obligations.UnselectedDispatchWritesNothing := by
  intro s hready
  rw [exec_dispatch, hready]
  rfl

/-- Settles O19: the timeout's write is the full reset, which RESET writes too. -/
theorem timeoutEqualsReset : Obligations.TimeoutEqualsReset := fun s harmed hreach =>
  have htimeout := exec_tick_of_timeout harmed hreach
  ⟨htimeout.trans (exec_reset s).symm, _, htimeout, fullReset_isResetState s⟩

/-! ## No two operations of a cycle conflict (R87) -/

/-- Two values written over `old` are one value, as far as both are changes (log 10). -/
def AgreeOnChange {α : Type} (old x y : α) : Prop := x ≠ old → y ≠ old → x = y

/-- Two post-states of `s` agree on every register that both have changed. -/
def Compatible (s a b : State) : Prop :=
  AgreeOnChange s.startSeen a.startSeen b.startSeen ∧ AgreeOnChange s.bitsRem a.bitsRem b.bitsRem ∧
    AgreeOnChange s.code a.code b.code ∧ AgreeOnChange s.cmdReady a.cmdReady b.cmdReady ∧
    AgreeOnChange s.armed a.armed b.armed ∧ AgreeOnChange s.elapsed a.elapsed b.elapsed ∧
    AgreeOnChange s.ledOut a.ledOut b.ledOut

theorem compatible_refl (s a : State) : Compatible s a a :=
  ⟨fun _ _ => rfl, fun _ _ => rfl, fun _ _ => rfl, fun _ _ => rfl, fun _ _ => rfl, fun _ _ => rfl, fun _ _ => rfl⟩

theorem AgreeOnChange.symm {α : Type} {old x y : α} (h : AgreeOnChange old x y) : AgreeOnChange old y x :=
  fun hy hx => (h hx hy).symm

theorem Compatible.symm {s a b : State} (h : Compatible s a b) : Compatible s b a := by
  obtain ⟨h1, h2, h3, h4, h5, h6, h7⟩ := h
  exact ⟨h1.symm, h2.symm, h3.symm, h4.symm, h5.symm, h6.symm, h7.symm⟩

theorem compatible_unchanged (s b : State) : Compatible s s b :=
  ⟨fun h => absurd rfl h, fun h => absurd rfl h, fun h => absurd rfl h, fun h => absurd rfl h, fun h => absurd rfl h,
    fun h => absurd rfl h, fun h => absurd rfl h⟩

/-- An operation has one outcome. -/
theorem compatible_of_same {s a b : State} {i : Instr} (ha : exec i s = .next a) (hb : exec i s = .next b) :
    Compatible s a b := by
  cases ha.symm.trans hb
  exact compatible_refl s a

/-- In a cycle with `rst` an operation is RESET, or it writes nothing. -/
theorem exec_of_rst {s a : State} {ci : CycleInput} {d : Bool} {i : Instr} (hr : ci.rst = true)
    (hi : i ∈ ci.operations d) (ha : exec i s = .next a) : a = s.fullReset ∨ a = s := by
  simp only [mem_operations_iff, selected_of_rst hr, List.mem_singleton] at hi
  obtain rfl | rfl := hi <;> cases ha
  · exact .inl rfl
  · exact .inr rfl

/-- In a cycle without `rst` an operation is the EDGE, a TICK or a DISPATCH, or it writes nothing. -/
theorem exec_of_no_rst {s a : State} {ci : CycleInput} {d : Bool} {i : Instr} (hr : ci.rst = false)
    (hi : i ∈ ci.operations d) (ha : exec i s = .next a) :
    exec (.edge ci.interval) s = .next a ∨ exec .tick s = .next a ∨ exec .dispatch s = .next a ∨ a = s := by
  simp only [mem_operations_iff, mem_selected_iff, hr, Bool.false_eq_true, false_and, true_and, false_or] at hi
  obtain (⟨-, rfl⟩ | ⟨-, rfl⟩ | ⟨-, rfl⟩ | ⟨-, -, -, rfl⟩) | rfl := hi
  · exact .inl ha
  · exact .inr (.inl ha)
  · exact .inr (.inr (.inl ha))
  · cases ha
    exact .inr (.inr (.inr rfl))
  · cases ha
    exact .inr (.inr (.inr rfl))

/-- An EDGE that takes effect leaves nothing to a TICK or a DISPATCH, since it is not armed and no command is pending. -/
theorem edge_compatible {s a b : State} {v : Nat} (ha : exec (.edge v) s = .next a)
    (hb : exec .tick s = .next b ∨ exec .dispatch s = .next b) : Compatible s a b := by
  cases hl : s.listening with
  | false =>
    cases ha.symm.trans (exec_edge_of_not_listening v ((listening_eq_false_iff s).mp hl))
    exact compatible_unchanged s b
  | true =>
    obtain ⟨hready, harmed⟩ := (listening_iff s).mp hl
    obtain hb | hb := hb
    · cases hb.symm.trans (exec_tick_of_not_armed harmed)
      exact (compatible_unchanged s a).symm
    · cases hb.symm.trans (unselectedDispatchWritesNothing s hready)
      exact (compatible_unchanged s a).symm

/-- A DISPATCH beside a counted tick is no match, and its decode reset agrees with what the tick writes. -/
theorem tick_dispatch_compatible {s a b : State} (ha : exec .tick s = .next a) (hb : exec .dispatch s = .next b) :
    Compatible s a b := by
  cases harmed : s.armed with
  | false =>
    cases ha.symm.trans (exec_tick_of_not_armed harmed)
    exact compatible_unchanged s b
  | true =>
    cases hready : s.cmdReady with
    | false =>
      cases hb.symm.trans (unselectedDispatchWritesNothing s hready)
      exact (compatible_unchanged s a).symm
    | true =>
      cases hb.symm.trans (exec_dispatch_of_no_match hready (by simp [harmed]))
      rw [exec_tick, if_pos harmed] at ha
      cases ha
      split_ifs <;> simp [Compatible, AgreeOnChange]

/-- Two operations of one cycle agree on every register that both change. -/
theorem operations_compatible {s a b : State} {ci : CycleInput} {d : Bool} {i j : Instr} (hi : i ∈ ci.operations d)
    (hj : j ∈ ci.operations d) (ha : exec i s = .next a) (hb : exec j s = .next b) : Compatible s a b := by
  cases hr : ci.rst with
  | true =>
    obtain rfl | rfl := exec_of_rst hr hi ha
    · obtain rfl | rfl := exec_of_rst hr hj hb
      · exact compatible_refl _ _
      · exact (compatible_unchanged _ _).symm
    · exact compatible_unchanged _ _
  | false =>
    match exec_of_no_rst hr hi ha, exec_of_no_rst hr hj hb with
    | .inl hedge, .inl hedge' => exact compatible_of_same hedge hedge'
    | .inl hedge, .inr (.inl htick) => exact edge_compatible hedge (.inl htick)
    | .inl hedge, .inr (.inr (.inl hdispatch)) => exact edge_compatible hedge (.inr hdispatch)
    | .inr (.inl htick), .inl hedge => exact (edge_compatible hedge (.inl htick)).symm
    | .inr (.inl htick), .inr (.inl htick') => exact compatible_of_same htick htick'
    | .inr (.inl htick), .inr (.inr (.inl hdispatch)) => exact tick_dispatch_compatible htick hdispatch
    | .inr (.inr (.inl hdispatch)), .inl hedge => exact (edge_compatible hedge (.inr hdispatch)).symm
    | .inr (.inr (.inl hdispatch)), .inr (.inl htick) => exact (tick_dispatch_compatible htick hdispatch).symm
    | .inr (.inr (.inl hdispatch)), .inr (.inr (.inl hdispatch')) => exact compatible_of_same hdispatch hdispatch'
    | .inr (.inr (.inr hsame)), _ => exact hsame ▸ compatible_unchanged s b
    | _, .inr (.inr (.inr hsame)) => exact hsame ▸ (compatible_unchanged s a).symm

/-- Settles O26. -/
theorem operationsOfACycleNeverConflict : Obligations.OperationsOfACycleNeverConflict :=
  fun _ _ _ _ _ _ hi hj ha hb => operations_compatible hi hj ha hb

/-! ## The order of a cycle's operations (R88) -/

/-- Two writes over one value that agree, if both are changes, may be applied in either order. -/
theorem writeOver_comm {α : Type} [DecidableEq α] {old x y : α} (h : AgreeOnChange old x y) (z : α) :
    writeOver old y (writeOver old x z) = writeOver old x (writeOver old y z) := by
  by_cases hx : x = old
  · simp [writeOver, hx]
  by_cases hy : y = old
  · simp [writeOver, hy]
  simp [writeOver, hy, h hx hy]

/-- The writes of two compatible post-states come into a cycle in either order. -/
theorem commit_comm {s a b : State} (h : Compatible s a b) (acc : State) :
    s.commit b (s.commit a acc) = s.commit a (s.commit b acc) := by
  obtain ⟨hseen, hrem, hcode, hready, harmed, helapsed, hled⟩ := h
  simp only [State.commit, writeOver_comm hseen, writeOver_comm hrem, writeOver_comm hcode, writeOver_comm hready,
    writeOver_comm harmed, writeOver_comm helapsed, writeOver_comm hled]

/-- Operations that are pairwise compatible from `pre` may be performed in any order. -/
theorem perform_perm {pre : State} {ops ops' : List Instr} (hperm : ops.Perm ops')
    (h : ∀ i ∈ ops, ∀ j ∈ ops, ∀ a b, exec i pre = .next a → exec j pre = .next b → Compatible pre a b) (acc : State) :
    perform pre acc ops = perform pre acc ops' := by
  induction hperm generalizing acc with
  | nil => rfl
  | cons i _ ih =>
    obtain ⟨a, ha, -⟩ := exec_next i pre
    rw [perform_cons ha, perform_cons ha]
    exact ih (fun j hj k hk => h j (List.mem_cons_of_mem _ hj) k (List.mem_cons_of_mem _ hk)) _
  | swap i j rest =>
    obtain ⟨a, ha, -⟩ := exec_next i pre
    obtain ⟨b, hb, -⟩ := exec_next j pre
    rw [perform_cons hb, perform_cons ha, perform_cons ha, perform_cons hb,
      commit_comm (h j (by simp) i (by simp) b a hb ha)]
  | trans hfirst _ ih ih' =>
    rw [ih h, ih' fun j hj k hk => h j (hfirst.mem_iff.mpr hj) k (hfirst.mem_iff.mpr hk)]

/-- Settles O25: the operations of a cycle are compatible, and in their own order they give the cycle rule. -/
theorem operationsOfACycleCommute : Obligations.OperationsOfACycleCommute := by
  intro s ci ops hperm
  have hcompatible (i : Instr) (hi : i ∈ ops) (j : Instr) (hj : j ∈ ops) (a b : State) (ha : exec i s = .next a)
      (hb : exec j s = .next b) : Compatible s a b :=
    operations_compatible (hperm.mem_iff.mp hi) (hperm.mem_iff.mp hj) ha hb
  rw [perform_perm hperm hcompatible, perform_operations]

/-! ## The guards of one cycle (R86, R87) -/

theorem edgeFires_iff (s : State) (ci : CycleInput) :
    s.edgeFires ci = true ↔ ci.edgeValid = true ∧ s.cmdReady = false ∧ s.armed = false := by
  rw [edgeFires_eq, Bool.and_eq_true, listening_iff]

theorem tickCounted_of_not_armed {s : State} (ci : CycleInput) (h : s.armed = false) : s.tickCounted ci = false := by
  rw [State.tickCounted, h, Bool.and_false]

/-- Settles O46, clause by clause: EDGE needs both guards off, a match needs `armed` off. -/
theorem operationsOfACycleExcludeEachOther : Obligations.OperationsOfACycleExcludeEachOther := by
  intro s ci
  refine ⟨fun hedge => ?edge, fun hactive => ?discarded, fun hmatch => ?hit, fun hready hcounted => ?beside,
    fun hready htimeout => ?timeout⟩
  case edge =>
    obtain ⟨-, hready, harmed⟩ := (edgeFires_iff s ci).mp hedge
    have hnone : Instr.dispatch ∉ ci.operations s.cmdReady := by simp [mem_operations_iff, mem_selected_iff, hready]
    exact ⟨hready, hnone, tickCounted_of_not_armed ci harmed, exec_tick_of_not_armed harmed⟩
  case discarded =>
    have hshut : s.cmdReady = true ∨ s.armed = true :=
      hactive.imp_right fun hcounted => ((tickCounted_iff s ci).mp hcounted).2
    refine ⟨?_, fun v => exec_edge_of_not_listening v hshut⟩
    rw [edgeFires_eq, (listening_eq_false_iff s).mpr hshut, Bool.and_false]
  case hit =>
    obtain ⟨-, -, harmed⟩ := (matchFires_iff s).mp hmatch
    have hcounted := tickCounted_of_not_armed ci harmed
    exact ⟨hcounted, timeoutFires_of_not_counted hcounted, exec_tick_of_not_armed harmed⟩
  case beside =>
    obtain ⟨-, harmed⟩ := (tickCounted_iff s ci).mp hcounted
    have hmiss : ¬ (s.code = s.cfg.target ∧ s.armed = false) := by simp [harmed]
    exact ⟨Bool.eq_false_iff.mpr fun hmatch => hmiss ((matchFires_iff s).mp hmatch).2, _,
      exec_dispatch_of_no_match hready hmiss, rfl, rfl, rfl⟩
  case timeout =>
    obtain ⟨hcounted, hreach⟩ := (Bool.and_eq_true _ _).mp htimeout
    obtain ⟨-, harmed⟩ := (tickCounted_iff s ci).mp hcounted
    obtain ⟨a, ha, hinitial⟩ := exec_dispatch_decodeInitial hready
    exact ⟨hready, harmed, fun hexclusive => by simp [hexclusive hready] at harmed, a, _, ha,
      exec_tick_of_timeout harmed (of_decide_eq_true hreach), hinitial, decodeReset_decodeInitial _⟩

/-! ## One operation at a time (R31 V8, R88) -/

/-- V8: a classified EDGE needs both guards off (R87), and V4 keeps a DISPATCH and a counted tick apart. -/
theorem atMostOneTakesEffect_of_inv {s : State} (h : s.Inv) (ci : CycleInput) : s.atMostOneTakesEffect ci := by
  obtain ⟨-, -, -, hexclusive, -⟩ := h
  refine ⟨fun ⟨hedge, hready⟩ => ?_, fun ⟨hedge, hcounted⟩ => ?_, fun ⟨hready, hcounted⟩ => ?_⟩
  · obtain ⟨-, hidle, -⟩ := (edgeFires_iff s ci).mp hedge
    exact absurd (hidle.symm.trans hready) (by decide)
  · obtain ⟨-, -, harmed⟩ := (edgeFires_iff s ci).mp hedge
    simp [tickCounted_of_not_armed ci harmed] at hcounted
  · simp [tickCounted_of_not_armed ci (hexclusive hready)] at hcounted

/-- Settles O27: which guard holds says which operation the cycle is. -/
theorem atMostOneOperationTakesEffect : Obligations.AtMostOneOperationTakesEffect := by
  intro s ci hinv hc hdec hr
  refine ⟨atMostOneTakesEffect_of_inv hinv ci, ?_⟩
  have ⟨_, _, _, hexclusive, hinitial, _⟩ := hinv
  have hrule : step s = .next (cycleRule s.nextCycle ci) := (stepIsTheCycleRule s ci hc hdec).1
  cases hready : s.dispatchFires with
  | true =>
    refine .inr (.inl ⟨rfl, ?_⟩)
    rw [step_of_decodeWord hc hdec, show s.cmdReady = true from hready]
    exact perform_pending_of_no_counted_tick (s := s.nextCycle) hr hready fun _ => hexclusive hready
  | false =>
    cases hcounted : s.tickCounted ci with
    | true =>
      obtain ⟨-, harmed⟩ := (tickCounted_iff s ci).mp hcounted
      refine .inr (.inr (.inl ⟨rfl, ?_⟩))
      rw [hrule, cycleRule_of_counted (s := s.nextCycle) hr hcounted, exec_tick]
      simp [harmed, show s.cmdReady = false from hready]
    | false =>
      cases hedge : s.edgeFires ci with
      | true =>
        obtain ⟨hvalid, hl⟩ := (Bool.and_eq_true _ _).mp hedge
        exact .inl ⟨rfl, hrule.trans (cycleRule_of_edge (s := s.nextCycle) hr hvalid hl)⟩
      | false =>
        refine .inr (.inr (.inr ⟨rfl, rfl, rfl, ?_⟩))
        rw [hrule, cycleRule_of_quiet (s := s.nextCycle) hr hready hcounted hedge]
        rfl

end Sys2Proof

/-!
PROOFS. How a step runs its word (44_cycle.md R86): the operations it performs, the refusals (00_scope.md R7, log 7), the
idle cycle (R89), and the inputs that make no difference (40_classifier.md R61, 70_reset_and_hazards.md R113).
-/

namespace Sys2Proof

open Sys2Proof.Machine

/-! ## Decoded operations and refusals -/

/-- Settles O23. -/
theorem stepRunsTheDecodedOperation : Obligations.StepRunsTheDecodedOperation := by
  have hperforms (s : State) (ops : List Instr) (hc : s.cfg.Legal)
      (hdec : decode s.cfg.iw s.cmdReady s.inputWord = .ok ops) : step s = perform s.nextCycle s.nextCycle ops := by
    rw [step_of_legal hc]
    exact runCycle_of_decode (s := s.nextCycle) hdec
  refine ⟨hperforms, fun s i e v hc hdec => ?_, fun s => rfl⟩
  obtain ⟨t, ht, -⟩ := exec_next i s.nextCycle
  rw [hperforms s _ hc hdec, perform_single e v ht, ht]

/-- A number that is no cycle input word is refused by name (log 7). -/
theorem runCycle_of_ge {s : State} {w : Nat} (h : 2 ^ (s.cfg.iw + 3) ≤ w) :
    runCycle s w = .refused .notACycleInputWord := by
  simp [runCycle, decode, decodeWord_of_ge h]

/-- A legal configuration is refused for its listed number only, if at all. -/
theorem step_ne_illegalConfiguration {s : State} (hc : s.cfg.Legal) : step s ≠ .refused .illegalConfiguration := by
  obtain hw | hw := Nat.lt_or_ge s.inputWord (2 ^ (s.cfg.iw + 3))
  · rw [(stepIsTheCycleRule s _ hc (decodeWord_of_lt hw)).1]
    simp
  · rw [step_of_legal hc, runCycle_of_ge (s := s.nextCycle) hw]
    simp

/-- Settles O28. -/
theorem illegalConfigurationIsRefused : Obligations.IllegalConfigurationIsRefused :=
  fun _ => ⟨fun hrefused hc => step_ne_illegalConfiguration hc hrefused, fun hc => if_neg hc⟩

/-- Settles O29. -/
theorem tooWideStimulusIsRefused : Obligations.TooWideStimulusIsRefused :=
  ⟨fun _ _ => decodeWord_of_ge,
    fun s w hc hw => (step_of_legal (s := s.withInput w) hc).trans (runCycle_of_ge (s := s.nextCycle) hw)⟩

/-! ## Inputs that make no difference -/

/-- The inputs that a cycle input word packs (R51). -/
def inputsOf (iw w : Nat) : CycleInput :=
  { rst := w.testBit (iw + 2), tick := w.testBit (iw + 1), edgeValid := w.testBit iw, interval := w % 2 ^ iw }

theorem decodeWord_inputsOf {iw w : Nat} (h : w < 2 ^ (iw + 3)) : decodeWord iw w = .ok (inputsOf iw w) :=
  decodeWord_of_lt h

/-- A step under a given word, by the cycle rule. -/
theorem step_withInput_eq_cycleRule {s : State} {w : Nat} {ci : CycleInput} (hc : s.cfg.Legal)
    (hdec : decodeWord s.cfg.iw w = .ok ci) : step (s.withInput w) = .next (cycleRule s.nextCycle ci) :=
  (stepIsTheCycleRule (s.withInput w) ci hc hdec).1

/-- Settles O21: a word below `2^IW` has no input bit set. -/
theorem nopLeavesEveryRegister : Obligations.NopLeavesEveryRegister := by
  refine ⟨fun s => rfl, fun s w hc hready hw => ?_⟩
  have hword : w < 2 ^ (s.cfg.iw + 3) := hw.trans_le (Nat.pow_le_pow_right (by omega) (by omega))
  have hedge : w.testBit s.cfg.iw = false := testBit_above_width hw le_rfl
  have htick : w.testBit (s.cfg.iw + 1) = false := testBit_above_width hw (by omega)
  have hrst : w.testBit (s.cfg.iw + 2) = false := testBit_above_width hw (by omega)
  have hquiet : cycleRule s.nextCycle (inputsOf s.cfg.iw w) = s.nextCycle :=
    cycleRule_of_quiet hrst hready (by simp [State.tickCounted, inputsOf, htick])
      (by simp [State.edgeFires, inputsOf, hedge])
  exact (step_withInput_eq_cycleRule hc (decodeWord_inputsOf hword)).trans (congrArg _ hquiet)

/-- Of the inputs the cycle rule reads `rst`, `tick`, whether an edge is classified, and as what. -/
theorem cycleRule_congr {s : State} {a b : CycleInput} (hr : a.rst = b.rst) (ht : a.tick = b.tick)
    (hfires : s.edgeFires a = s.edgeFires b)
    (hclass : s.edgeFires a = true → rawClass a.interval = rawClass b.interval) : cycleRule s a = cycleRule s b := by
  have hcounted : s.tickCounted a = s.tickCounted b := by rw [State.tickCounted, State.tickCounted, ht]
  have htimeout : s.timeoutFires a = s.timeoutFires b := by rw [State.timeoutFires, State.timeoutFires, hcounted]
  have hdecode : cycleDecode s a = cycleDecode s b := by
    rw [cycleDecode, cycleDecode, htimeout, ← hfires]
    cases hedge : s.edgeFires a with
    | true => rw [hclass hedge]
    | false => rfl
  rw [cycleRule, cycleRule, hr, hcounted, htimeout, hdecode]

/-- Settles O40: while not listening no edge is classified. -/
theorem edgesAreInvisibleWhileNotListening : Obligations.EdgesAreInvisibleWhileNotListening := by
  intro s v w hc hl hv hw hr ht
  have hnone (ci : CycleInput) : s.nextCycle.edgeFires ci = false := by
    rw [edgeFires_eq, show s.nextCycle.listening = false from hl, Bool.and_false]
  have hsame : cycleRule s.nextCycle (inputsOf s.cfg.iw v) = cycleRule s.nextCycle (inputsOf s.cfg.iw w) :=
    cycleRule_congr hr ht ((hnone _).trans (hnone _).symm) fun h => by simp [hnone] at h
  rw [step_withInput_eq_cycleRule hc (decodeWord_inputsOf hv), step_withInput_eq_cycleRule hc (decodeWord_inputsOf hw),
    hsame]

/-- Settles O41: an interval is read through its raw classification only. -/
theorem onlyTheBandOfAnIntervalMatters : Obligations.OnlyTheBandOfAnIntervalMatters := by
  intro s a b hc ha hb hr ht he hclass
  rw [step_withInput_eq_cycleRule hc (decodeWord_word ha), step_withInput_eq_cycleRule hc (decodeWord_word hb),
    cycleRule_congr hr ht (by rw [edgeFires_eq, edgeFires_eq, he]) fun _ => hclass]

end Sys2Proof

/-!
PROOFS. Runs of several cycles: the run that listed words make, and from it the stalled frame (41_accumulator.md R73), the
output window (43_timer.md R82, R84), the received command (41_accumulator.md R68, R69) and FRAME (30_encoding.md R59).
-/

namespace Sys2Proof

open Sys2Proof.Machine

/-! ## The run of listed words -/

/-- One cycle under the word `w`, by the cycle rule (R86). -/
def cycleWord (s : State) (w : Nat) : State := cycleRule s.nextCycle (inputsOf s.cfg.iw w)

/-- The cycles under each of the words in turn. -/
def runWords (s : State) (ws : List Nat) : State := ws.foldl cycleWord s

theorem runWords_cons (s : State) (w : Nat) (ws : List Nat) : runWords s (w :: ws) = runWords (cycleWord s w) ws := rfl

theorem runWords_append (s : State) (us ws : List Nat) : runWords s (us ++ ws) = runWords (runWords s us) ws :=
  List.foldl_append

@[simp] theorem cycleWord_cfg (s : State) (w : Nat) : (cycleWord s w).cfg = s.cfg :=
  (cycleRule_effect s.nextCycle _).sameOutside.1

@[simp] theorem cycleWord_stimulus (s : State) (w : Nat) : (cycleWord s w).stimulus = s.stimulus.drop 1 :=
  (cycleRule_effect s.nextCycle _).sameOutside.2.1

theorem runWords_cfg (s : State) (ws : List Nat) : (runWords s ws).cfg = s.cfg := by
  induction ws generalizing s with
  | nil => rfl
  | cons w ws ih => exact (ih _).trans (cycleWord_cfg s w)

/-- A step under a listed word. -/
theorem step_of_stimulus {s : State} {w : Nat} {ws : List Nat} (hc : s.cfg.Legal) (hstimulus : s.stimulus = w :: ws)
    (hw : w < 2 ^ (s.cfg.iw + 3)) : step s = .next (cycleWord s w) := by
  refine (stepIsTheCycleRule s _ hc ?_).1
  rw [inputWord_of_stimulus hstimulus]
  exact decodeWord_inputsOf hw

/-- A legal run over listed words ends in the state of `runWords`, with those words dropped. -/
theorem cycles_of_stimulus {s : State} {ws rest : List Nat} (hc : s.cfg.Legal) (hstimulus : s.stimulus = ws ++ rest)
    (hfits : ∀ w ∈ ws, w < 2 ^ (s.cfg.iw + 3)) :
    cycles ws.length s = .next (runWords s ws) ∧ (runWords s ws).stimulus = rest := by
  induction ws generalizing s with
  | nil => exact ⟨rfl, hstimulus⟩
  | cons w ws ih =>
    obtain ⟨hw, hws⟩ := List.forall_mem_cons.mp hfits
    rw [List.length_cons, cycles_succ (step_of_stimulus hc hstimulus hw)]
    exact ih (by simpa using hc) (by simp [hstimulus]) (by simpa using hws)

/-- Words of a run without `rst` are cycle input words. -/
theorem fits_of_noReset {iw : Nat} {ws : List Nat} (h : ∀ w ∈ ws, NoReset iw w) : ∀ w ∈ ws, w < 2 ^ (iw + 3) :=
  fun w hw => (h w hw).1

/-! ## The stalled frame (R73) -/

/-- A classified edge has its word's cycle to itself (R87). -/
theorem cycleWord_of_edge {s : State} {w : Nat} (hw : NoReset s.cfg.iw w) (hedge : w.testBit s.cfg.iw = true)
    (hl : s.listening = true) : .next (cycleWord s w) = exec (.edge (w % 2 ^ s.cfg.iw)) s.nextCycle :=
  cycleRule_of_edge (s := s.nextCycle) (ci := inputsOf s.cfg.iw w) hw.2 hedge hl

/-- While listening ticks are not counted (R81), so without `rst` only an edge can have an effect; before a start bit only
one in the start band (R68). -/
theorem cycleWord_of_ignored {s : State} {w : Nat} (hw : NoReset s.cfg.iw w) (hl : s.listening = true)
    (hignored : w.testBit s.cfg.iw = true →
      s.startSeen = false ∧ ¬ (740 < w % 2 ^ s.cfg.iw ∧ w % 2 ^ s.cfg.iw < 760)) : cycleWord s w = s.nextCycle := by
  obtain ⟨hready, harmed⟩ := (listening_iff s).mp hl
  cases hedge : w.testBit s.cfg.iw with
  | true =>
    obtain ⟨hs, hnoise⟩ := hignored hedge
    have hrule := cycleWord_of_edge hw hedge hl
    rw [exec_edge_of_awaitingStart (s := s.nextCycle) _ hl hs, if_neg hnoise] at hrule
    exact Host.Outcome.next.inj hrule
  | false =>
    exact cycleRule_of_quiet (s := s.nextCycle) hw.2 hready (tickCounted_of_not_armed _ harmed)
      (by simp [State.edgeFires, inputsOf, hedge])

/-- `s` after `k` cycles that have changed no register. -/
def afterQuiet (s : State) (k : Nat) : State := { s with stimulus := s.stimulus.drop k, cycle := s.cycle + k }

@[simp] theorem afterQuiet_cfg (s : State) (k : Nat) : (afterQuiet s k).cfg = s.cfg := rfl

/-- A run of such words leaves a listening machine as it was. -/
theorem runWords_of_ignored {s : State} {ws : List Nat} (hl : s.listening = true) (hws : ∀ w ∈ ws, NoReset s.cfg.iw w)
    (hignored : ∀ w ∈ ws, w.testBit s.cfg.iw = true →
      s.startSeen = false ∧ ¬ (740 < w % 2 ^ s.cfg.iw ∧ w % 2 ^ s.cfg.iw < 760)) :
    runWords s ws = afterQuiet s ws.length := by
  induction ws generalizing s with
  | nil => rfl
  | cons w ws ih =>
    obtain ⟨hw, hws'⟩ := List.forall_mem_cons.mp hws
    obtain ⟨hfirst, hignored'⟩ := List.forall_mem_cons.mp hignored
    rw [runWords_cons, cycleWord_of_ignored hw hl hfirst, ih (s := s.nextCycle) hl hws' hignored']
    simp [afterQuiet, State.nextCycle, Nat.add_comm, Nat.add_left_comm]

/-- Settles O45. -/
theorem stalledFrameStays : Obligations.StalledFrameStays := by
  intro s ws rest hc hl _ hstimulus hws
  have hnoReset : ∀ w ∈ ws, NoReset s.cfg.iw w := fun w hw => (hws w hw).1
  have hnoEdge : ∀ w ∈ ws, w.testBit s.cfg.iw = false := fun w hw => (hws w hw).2
  obtain ⟨hrun, -⟩ := cycles_of_stimulus hc hstimulus (fits_of_noReset hnoReset)
  rw [hrun, runWords_of_ignored hl hnoReset fun w hw hedge => by simp [hnoEdge w hw] at hedge, afterQuiet, hstimulus,
    List.drop_left]

/-! ## The output window (R82, R84) -/

/-- In the output window: the decoder at `Initial`, the output on, and `n` ticks counted. -/
structure InWindow (n : Nat) (s : State) : Prop where
  decode : s.DecodeInitial
  armed : s.armed = true
  ledOut : s.ledOut = true
  elapsed : s.elapsed = n

/-- While armed a word without `rst` is its tick alone (R113). -/
theorem cycleWord_of_armed {s : State} {w : Nat} (hw : NoReset s.cfg.iw w) (harmed : s.armed = true)
    (hready : s.cmdReady = false) :
    cycleWord s w = if w.testBit (s.cfg.iw + 1) then
      (if s.reachesThreshold then s.nextCycle.fullReset else s.nextCycle.countTick) else s.nextCycle := by
  obtain ⟨-, hr⟩ := hw
  cases htick : w.testBit (s.cfg.iw + 1) with
  | true =>
    have hcounted : s.nextCycle.tickCounted (inputsOf s.cfg.iw w) = true := (tickCounted_iff _ _).mpr ⟨htick, harmed⟩
    rw [cycleWord, cycleRule_of_counted (s := s.nextCycle) hr hcounted, State.nextCycle_cmdReady, hready]
    rfl
  | false =>
    exact cycleRule_of_quiet (s := s.nextCycle) hr hready (by simp [State.tickCounted, inputsOf, htick])
      (by simp [State.edgeFires, harmed])

/-- Within the threshold a counted tick reaches it exactly when it is the last missing one. -/
theorem reachesThreshold_iff_of_below {s : State} (hc : s.cfg.Legal) (h : s.elapsed < s.cfg.threshold) :
    s.reachesThreshold = true ↔ s.elapsed + 1 = s.cfg.threshold := by
  have hnext : (s.elapsed + 1) % 2 ^ s.cfg.tw = s.elapsed + 1 := elapsedNext_of_below hc h
  rw [reachesThreshold_iff, hnext]
  omega

/-- Short of the threshold a word without `rst` stays in the window, and only its tick counts. -/
theorem cycleWord_inWindow {n : Nat} {s : State} {w : Nat} (hc : s.cfg.Legal) (h : InWindow n s) (hw : NoReset s.cfg.iw w)
    (hbelow : n + (w.testBit (s.cfg.iw + 1)).toNat < s.cfg.threshold) :
    InWindow (n + (w.testBit (s.cfg.iw + 1)).toNat) (cycleWord s w) := by
  obtain ⟨hinitial, harmed, hled, rfl⟩ := h
  have ⟨_, _, _, hready⟩ := hinitial
  rw [cycleWord_of_armed hw harmed hready]
  cases htick : w.testBit (s.cfg.iw + 1) with
  | false => exact ⟨hinitial, harmed, hled, rfl⟩
  | true =>
    simp only [htick, Bool.toNat_true] at hbelow
    have hlt : s.elapsed < s.cfg.threshold := by omega
    have hmore : ¬ s.reachesThreshold = true := fun hreach =>
      hbelow.ne ((reachesThreshold_iff_of_below hc hlt).mp hreach)
    rw [if_pos rfl, if_neg hmore]
    exact ⟨hinitial, harmed, hled, elapsedNext_of_below hc hlt⟩

theorem tickCount_cons (iw w : Nat) (ws : List Nat) :
    tickCount iw (w :: ws) = (w.testBit (iw + 1)).toNat + tickCount iw ws := by
  rw [tickCount, List.countP_cons, Nat.add_comm]
  cases w.testBit (iw + 1) <;> rfl

/-- A run short of the threshold stays in the window, and only its ticks count. -/
theorem runWords_inWindow {n : Nat} {s : State} {ws : List Nat} (hc : s.cfg.Legal) (h : InWindow n s)
    (hws : ∀ w ∈ ws, NoReset s.cfg.iw w) (hbelow : n + tickCount s.cfg.iw ws < s.cfg.threshold) :
    InWindow (n + tickCount s.cfg.iw ws) (runWords s ws) := by
  induction ws generalizing n s with
  | nil => exact h
  | cons w ws ih =>
    obtain ⟨hw, hws'⟩ := List.forall_mem_cons.mp hws
    rw [tickCount_cons, ← Nat.add_assoc] at hbelow ⊢
    have hnext := cycleWord_inWindow hc h hw (by omega)
    simpa [runWords_cons] using
      ih (by simpa using hc) hnext (by simpa using hws') (by simpa using hbelow)

/-- The invariants put an armed machine in its window. -/
theorem inWindow_of_inv {s : State} (h : s.Inv) (harmed : s.armed = true) : InWindow s.elapsed s := by
  obtain ⟨-, -, -, -, hinitial, -, hled⟩ := h
  exact ⟨hinitial harmed, harmed, hled.trans harmed, rfl⟩

/-- The tick that makes `THRESHOLD` of them ends the window (R83). -/
theorem cycleWord_ends_window {n : Nat} {s : State} {w : Nat} (hc : s.cfg.Legal) (h : InWindow n s)
    (hw : NoReset s.cfg.iw w) (htick : w.testBit (s.cfg.iw + 1) = true) (hlast : n + 1 = s.cfg.threshold) :
    (cycleWord s w).IsResetState := by
  obtain ⟨⟨-, -, -, hready⟩, harmed, -, rfl⟩ := h
  have hreach : s.reachesThreshold = true := (reachesThreshold_iff_of_below hc (by omega)).mpr hlast
  rw [cycleWord_of_armed hw harmed hready, if_pos htick, if_pos hreach]
  exact fullReset_isResetState s.nextCycle

/-- Settles O42: the run within the window, and one tick more. -/
theorem outputWindowIsExact : Obligations.OutputWindowIsExact := by
  intro s ws rest hc hinv harmed hstimulus hws hbelow
  have hwindow := runWords_inWindow hc (inWindow_of_inv hinv harmed) hws hbelow
  have hcfg := runWords_cfg s ws
  refine ⟨?within, fun w rest' hrest hw htick hlast => ?ends⟩
  case within =>
    obtain ⟨hrun, hdropped⟩ := cycles_of_stimulus hc hstimulus (fits_of_noReset hws)
    exact ⟨_, hrun, hdropped, hcfg, hwindow.armed, hwindow.ledOut, hwindow.elapsed, hwindow.decode⟩
  case ends =>
    have hstimulus' : s.stimulus = (ws ++ [w]) ++ rest' := by
      rw [hstimulus, hrest, List.append_assoc, List.singleton_append]
    have hws' : ∀ u ∈ ws ++ [w], NoReset s.cfg.iw u := List.forall_mem_append.mpr ⟨hws, by simpa using hw⟩
    obtain ⟨hrun, hdropped⟩ := cycles_of_stimulus hc hstimulus' (fits_of_noReset hws')
    rw [List.length_append, List.length_singleton] at hrun
    refine ⟨_, hrun, ?_, hdropped⟩
    rw [runWords_append]
    exact cycleWord_ends_window (hcfg.symm ▸ hc) hwindow (hcfg.symm ▸ hw) (hcfg.symm ▸ htick) (hcfg.symm ▸ hlast)

/-! ## The received command (R68, R69) -/

/-- The actuation registers of `t` are those of `s`. -/
structure SameActuation (s t : State) : Prop where
  armed : t.armed = s.armed
  elapsed : t.elapsed = s.elapsed
  ledOut : t.ledOut = s.ledOut

/-- The part of a frame that has been received: the start bit, and bit intervals `vs` after it. The bits stand in `code`
above the positions still to be sampled, in the order of a shift register. -/
structure FrameReceived (vs : List Nat) (s : State) : Prop where
  startSeen : s.startSeen = true
  remaining : s.bitsRem.toNat + vs.length = 7
  code : s.code = shiftedCode vs <<< s.bitsRem.toNat
  cmdReady : s.cmdReady = decide (s.bitsRem = 0)

theorem FrameReceived.bitsRem_ne_zero {vs : List Nat} {s : State} (h : FrameReceived vs s) (hlen : vs.length < 7) :
    s.bitsRem ≠ 0 := by
  intro hzero
  have hall : vs.length = 7 := by simpa [hzero] using h.remaining
  omega

/-- Before the seventh bit the machine listens. -/
theorem FrameReceived.listening {vs : List Nat} {s : State} (h : FrameReceived vs s) (hlen : vs.length < 7)
    (harmed : s.armed = false) : s.listening = true :=
  (listening_iff s).mpr ⟨h.cmdReady.trans (decide_eq_false (h.bitsRem_ne_zero hlen)), harmed⟩

/-- A shift register takes one bit in at the bottom. -/
theorem shiftedCode_concat (vs : List Nat) (v : Nat) :
    shiftedCode (vs ++ [v]) = shiftedCode vs <<< 1 ||| (if 440 < v ∧ v < 460 then 1#8 else 0#8) :=
  List.foldl_concat _ _ _ _

/-- Or-ing a One in at bit `n - 1` is shifting it in, with the code held shifted to its final place (C4). -/
theorem shiftedCode_concat_shiftLeft (vs : List Nat) (v : Nat) {n : BitCount} (hn : n ≠ 0) :
    (if 440 < v ∧ v < 460 then shiftedCode vs <<< n.toNat ||| sampleMask n else shiftedCode vs <<< n.toNat) =
      shiftedCode (vs ++ [v]) <<< (n - 1).toNat := by
  have hone : n.toNat = 1 + (n.toNat - 1) := by
    have hpos := toNat_ne_zero hn
    omega
  have hshift : shiftedCode vs <<< n.toNat = shiftedCode vs <<< 1 <<< (n.toNat - 1) := by
    rw [← BitVec.shiftLeft_add, ← hone]
  rw [sampleMask_of_ne_zero hn, toNat_sub_one_of_ne_zero hn, shiftedCode_concat, BitVec.shiftLeft_or_distrib, hshift]
  split_ifs <;> simp

/-- A sampled bit interval extends the received frame. -/
theorem FrameReceived.sampleBit {vs : List Nat} {s : State} (h : FrameReceived vs s) (hlen : vs.length < 7) (v : Nat) :
    FrameReceived (vs ++ [v]) (s.sampleBit (decide (440 < v ∧ v < 460))) := by
  have hb := h.bitsRem_ne_zero hlen
  have hready : s.cmdReady = false := h.cmdReady.trans (decide_eq_false hb)
  have hpos := toNat_ne_zero hb
  refine ⟨h.startSeen, ?remaining, ?code, ?cmdReady⟩
  case remaining =>
    have hremaining := h.remaining
    rw [State.sampleBit_bitsRem, toNat_sub_one_of_ne_zero hb, List.length_append, List.length_singleton]
    omega
  case code =>
    rw [State.sampleBit_code, State.sampleBit_bitsRem, h.code, ← shiftedCode_concat_shiftLeft vs v hb]
    simp only [decide_eq_true_eq]
  case cmdReady =>
    rw [sampleBit_cmdReady_of_not_ready _ hready, State.sampleBit_bitsRem]
    exact decide_eq_decide.mpr sub_eq_zero.symm

/-- An accepted start bit begins a frame (R68). -/
theorem frameReceived_acceptStart {s : State} (h : s.DecodeInitial) : FrameReceived [] s.acceptStart := by
  obtain ⟨-, -, hcode, hready⟩ := h
  exact ⟨rfl, rfl, hcode, hready⟩

/-! ## Words and their edges -/

theorem edgeIntervals_append (iw : Nat) (us ws : List Nat) :
    edgeIntervals iw (us ++ ws) = edgeIntervals iw us ++ edgeIntervals iw ws := by
  simp [edgeIntervals]

theorem edgeIntervals_of_edge {iw w : Nat} (h : w.testBit iw = true) : edgeIntervals iw [w] = [w % 2 ^ iw] := by
  simp [edgeIntervals, h]

theorem edgeIntervals_of_no_edge {iw w : Nat} (h : w.testBit iw = false) : edgeIntervals iw [w] = [] := by
  simp [edgeIntervals, h]

/-- Words whose first edges are `noise` and then `v`, cut at the word that brings `v`. -/
theorem exists_words_of_edgeIntervals {iw v : Nat} {us noise vs : List Nat}
    (h : edgeIntervals iw us = noise ++ v :: vs) :
    ∃ before u after, us = before ++ u :: after ∧ edgeIntervals iw before = noise ∧ u.testBit iw = true ∧
      u % 2 ^ iw = v ∧ edgeIntervals iw after = vs := by
  obtain ⟨edges, tail, hedges, rfl, htail⟩ := List.map_eq_append_iff.mp h
  obtain ⟨u, tail', rfl, rfl, rfl⟩ := List.map_eq_cons_iff.mp htail
  obtain ⟨before, middle, rfl, rfl, hmiddle⟩ := List.filter_eq_append_iff.mp hedges
  obtain ⟨quiet, after, rfl, hquiet, hu, rfl⟩ := List.filter_eq_cons_iff.mp hmiddle
  refine ⟨before ++ quiet, u, after, by simp, ?_, hu, rfl, rfl⟩
  have hnone : edgeIntervals iw quiet = [] := by simpa [edgeIntervals] using hquiet
  rw [edgeIntervals_append, hnone, List.append_nil]
  rfl

/-! ## The run of a frame -/

theorem SameActuation.trans {s t u : State} (h : SameActuation s t) (h' : SameActuation t u) : SameActuation s u :=
  ⟨h'.armed.trans h.armed, h'.elapsed.trans h.elapsed, h'.ledOut.trans h.ledOut⟩

theorem FrameReceived.nextCycle {vs : List Nat} {s : State} (h : FrameReceived vs s) : FrameReceived vs s.nextCycle :=
  ⟨h.startSeen, h.remaining, h.code, h.cmdReady⟩

/-- One word of a frame without `rst`: its edge extends the frame, if it brings one; nothing else counts. -/
theorem cycleWord_frameReceived {vs : List Nat} {s : State} {w : Nat} (h : FrameReceived vs s) (hlen : vs.length < 7)
    (harmed : s.armed = false) (hw : NoReset s.cfg.iw w) :
    FrameReceived (vs ++ edgeIntervals s.cfg.iw [w]) (cycleWord s w) ∧ SameActuation s (cycleWord s w) := by
  have hl : s.listening = true := h.listening hlen harmed
  cases hedge : w.testBit s.cfg.iw with
  | true =>
    have hrule := (cycleWord_of_edge hw hedge hl).trans
      (exec_edge_of_sampling _ hl h.startSeen (h.bitsRem_ne_zero hlen))
    rw [Host.Outcome.next.inj hrule, edgeIntervals_of_edge hedge]
    exact ⟨h.nextCycle.sampleBit hlen _, rfl, rfl, rfl⟩
  | false =>
    rw [cycleWord_of_ignored hw hl fun hvalid => by simp [hedge] at hvalid, edgeIntervals_of_no_edge hedge,
      List.append_nil]
    exact ⟨h.nextCycle, rfl, rfl, rfl⟩

/-- The words of a frame that leave it short of seven bits. -/
theorem runWords_frameReceived {vs : List Nat} {s : State} {ws : List Nat} (h : FrameReceived vs s)
    (hlen : vs.length + (edgeIntervals s.cfg.iw ws).length < 7) (harmed : s.armed = false)
    (hws : ∀ w ∈ ws, NoReset s.cfg.iw w) :
    FrameReceived (vs ++ edgeIntervals s.cfg.iw ws) (runWords s ws) ∧ SameActuation s (runWords s ws) := by
  induction ws generalizing vs s with
  | nil => exact ⟨by simpa [edgeIntervals, runWords] using h, rfl, rfl, rfl⟩
  | cons w ws ih =>
    obtain ⟨hw, hws'⟩ := List.forall_mem_cons.mp hws
    rw [← List.singleton_append, edgeIntervals_append, List.length_append] at hlen
    obtain ⟨hnext, hsame⟩ := cycleWord_frameReceived h (by omega) harmed hw
    have hlen' : (vs ++ edgeIntervals s.cfg.iw [w]).length + (edgeIntervals (cycleWord s w).cfg.iw ws).length < 7 := by
      rw [List.length_append, cycleWord_cfg]
      omega
    obtain ⟨hrun, hsame'⟩ := ih hnext hlen' (hsame.armed.trans harmed) (by simpa using hws')
    rw [cycleWord_cfg, List.append_assoc, ← edgeIntervals_append] at hrun
    exact ⟨hrun, hsame.trans hsame'⟩

/-- The edge in the start band begins a frame (R68). -/
theorem cycleWord_starts {s : State} {w : Nat} (hd : s.DecodeInitial) (harmed : s.armed = false) (hw : NoReset s.cfg.iw w)
    (hedge : w.testBit s.cfg.iw = true) (hband : 740 < w % 2 ^ s.cfg.iw ∧ w % 2 ^ s.cfg.iw < 760) :
    FrameReceived [] (cycleWord s w) ∧ SameActuation s (cycleWord s w) := by
  have ⟨hs, _, _, hready⟩ := hd
  have hl : s.listening = true := (listening_iff s).mpr ⟨hready, harmed⟩
  have hrule := cycleWord_of_edge hw hedge hl
  rw [exec_edge_of_awaitingStart (s := s.nextCycle) _ hl hs, if_pos hband] at hrule
  rw [Host.Outcome.next.inj hrule]
  exact ⟨frameReceived_acceptStart (s := s.nextCycle) hd, rfl, rfl, rfl⟩

/-- Noise, a start bit and fewer than seven bit intervals: the frame received so far. -/
theorem runWords_receives {s : State} {us noise vs : List Nat} {start : Nat} (hd : s.DecodeInitial)
    (harmed : s.armed = false) (hus : ∀ u ∈ us, NoReset s.cfg.iw u)
    (hedges : edgeIntervals s.cfg.iw us = noise ++ start :: vs) (hnoise : ∀ v ∈ noise, ¬ (740 < v ∧ v < 760))
    (hstart : 740 < start ∧ start < 760) (hlen : vs.length < 7) :
    FrameReceived vs (runWords s us) ∧ SameActuation s (runWords s us) := by
  have ⟨hs, _, _, hready⟩ := hd
  obtain ⟨before, u, after, rfl, rfl, hedge, rfl, rfl⟩ := exists_words_of_edgeIntervals hedges
  obtain ⟨hbefore, hrest⟩ := List.forall_mem_append.mp hus
  obtain ⟨hu, hafter⟩ := List.forall_mem_cons.mp hrest
  have hignored (w : Nat) (hw : w ∈ before) (hvalid : w.testBit s.cfg.iw = true) :
      s.startSeen = false ∧ ¬ (740 < w % 2 ^ s.cfg.iw ∧ w % 2 ^ s.cfg.iw < 760) :=
    ⟨hs, hnoise _ (List.mem_map_of_mem (List.mem_filter.mpr ⟨hw, hvalid⟩))⟩
  rw [runWords_append, runWords_of_ignored ((listening_iff s).mpr ⟨hready, harmed⟩) hbefore hignored, runWords_cons]
  have hquiet : SameActuation s (afterQuiet s before.length) := ⟨rfl, rfl, rfl⟩
  obtain ⟨hbegun, hsame⟩ := cycleWord_starts (s := afterQuiet s before.length) hd harmed hu hedge hstart
  obtain ⟨hframe, hsame'⟩ := runWords_frameReceived (ws := after) hbegun (by simpa using hlen) (hsame.armed.trans harmed)
    (by simpa using hafter)
  exact ⟨by simpa using hframe, hquiet.trans (hsame.trans hsame')⟩

/-- Settles O43: six bit intervals after the start leave one bit, which the last edge brings. -/
theorem sevenIntervalsMakeTheCommand : Obligations.SevenIntervalsMakeTheCommand := by
  intro s us rest noise vs w start hc hd harmed hstimulus hus hw hedges hnoise hlo hhi hlen hedge
  have hcfg := runWords_cfg s us
  obtain ⟨hsix, hsame⟩ := runWords_receives hd harmed hus hedges hnoise ⟨hlo, hhi⟩ (by omega)
  obtain ⟨hseven, hsame'⟩ := cycleWord_frameReceived hsix (by omega) (hsame.armed.trans harmed) (hcfg.symm ▸ hw)
  rw [hcfg, edgeIntervals_of_edge hedge] at hseven
  have hzero : (cycleWord (runWords s us) w).bitsRem = 0 := by
    have hremaining := hseven.remaining
    rw [List.length_append, hlen, List.length_singleton] at hremaining
    exact BitVec.eq_of_toNat_eq (by simpa using hremaining)
  have hstimulus' : s.stimulus = (us ++ [w]) ++ rest := by rw [hstimulus, List.append_assoc, List.singleton_append]
  have hwords : ∀ u ∈ us ++ [w], NoReset s.cfg.iw u := List.forall_mem_append.mpr ⟨hus, by simpa using hw⟩
  obtain ⟨hrun, hdropped⟩ := cycles_of_stimulus hc hstimulus' (fits_of_noReset hwords)
  rw [List.length_append, List.length_singleton] at hrun
  obtain ⟨harmed', helapsed, hled⟩ := hsame.trans hsame'
  have hlast : runWords s (us ++ [w]) = cycleWord (runWords s us) w := runWords_append s us [w]
  rw [hlast] at hrun hdropped
  refine ⟨_, hrun, hdropped, (cycleWord_cfg _ _).trans hcfg, hseven.startSeen, hzero, ?_, ?_, harmed'.trans harmed,
    helapsed, hled⟩
  · rw [hseven.cmdReady, hzero]
    rfl
  · rw [hseven.code, hzero]
    exact BitVec.shiftLeft_zero _

/-! ## FRAME (R59) -/

/-- The interval of `BIT b`. -/
def bitInterval (b : Bool) : Nat := if b then 450 else 300

/-- The intervals of the bits of `FRAME c` at the positions `ks`. -/
def bitIntervals (c : BitVec 7) (ks : List Nat) : List Nat := ks.map fun k => bitInterval (c.getLsbD k)

theorem frame_expand (c : BitVec 7) :
    (PseudoStatement.frame c).expand = (750 :: bitIntervals c [6, 5, 4, 3, 2, 1, 0]).map .edge := by
  have hbit (b : Bool) : bitStatement b = .edge (bitInterval b) := by cases b <;> rfl
  simp [PseudoStatement.expand, bitIntervals, hbit]

/-- The shift register gives the command back. -/
theorem shiftedCode_bitIntervals (c : BitVec 7) :
    shiftedCode (bitIntervals c [6, 5, 4, 3, 2, 1, 0]) = c.setWidth 8 := by
  revert c
  decide

/-- The word of `EDGE n` brings its interval, and no `rst`. -/
theorem edgeWord_bits {iw n : Nat} (h : n < 2 ^ iw) :
    NoReset iw (Statement.word iw (.edge n)) ∧ (Statement.word iw (.edge n)).testBit iw = true ∧
      Statement.word iw (.edge n) % 2 ^ iw = n := by
  have hfits : (Statement.edge n).inputs.interval < 2 ^ iw := h
  obtain ⟨hw, hrst, -, hedge, hinterval⟩ := decodeWord_ok (decodeWord_word hfits)
  exact ⟨⟨hw, hrst.symm⟩, hedge.symm, hinterval.symm⟩

/-- Words of `EDGE` statements bring the intervals of those, in order. -/
theorem edgeIntervals_edgeWords {iw : Nat} {ns : List Nat} (h : ∀ n ∈ ns, n < 2 ^ iw) :
    edgeIntervals iw (stimulusWords iw (ns.map .edge)) = ns := by
  induction ns with
  | nil => rfl
  | cons n ns ih =>
    obtain ⟨hn, hns⟩ := List.forall_mem_cons.mp h
    obtain ⟨-, hedge, hmod⟩ := edgeWord_bits hn
    have hsplit : stimulusWords iw ((n :: ns).map .edge) =
        [Statement.word iw (.edge n)] ++ stimulusWords iw (ns.map .edge) := rfl
    rw [hsplit, edgeIntervals_append, edgeIntervals_of_edge hedge, hmod, ih hns]
    rfl

theorem noReset_edgeWords {iw : Nat} {ns : List Nat} (h : ∀ n ∈ ns, n < 2 ^ iw) :
    ∀ w ∈ stimulusWords iw (ns.map .edge), NoReset iw w := by
  intro w hw
  obtain ⟨n, hn, rfl⟩ : ∃ n ∈ ns, Statement.word iw (.edge n) = w := by simpa [stimulusWords] using hw
  exact (edgeWord_bits (h n hn)).1

/-- The port is wide enough for the intervals of a frame (R7). -/
theorem bitInterval_lt {c : Config} (hc : c.Legal) (b : Bool) : bitInterval b < 2 ^ c.iw := by
  have hwide : 2 ^ 10 ≤ 2 ^ c.iw := Nat.pow_le_pow_right (by omega) hc.1
  cases b <;> simp [bitInterval] <;> omega

/-- Settles O44: FRAME is a start bit and seven bit intervals, without noise. -/
theorem frameDeliversItsCommand : Obligations.FrameDeliversItsCommand := by
  intro s c rest hc hd harmed hstimulus
  have hwide : 2 ^ 10 ≤ 2 ^ s.cfg.iw := Nat.pow_le_pow_right (by omega) hc.1
  have hintervals : ∀ n ∈ 750 :: bitIntervals c [6, 5, 4, 3, 2, 1], n < 2 ^ s.cfg.iw :=
    List.forall_mem_cons.mpr ⟨by omega, List.forall_mem_map.mpr fun k _ => bitInterval_lt hc _⟩
  obtain ⟨hlast, hedge, hmod⟩ := edgeWord_bits (bitInterval_lt hc (c.getLsbD 0))
  have hsplit : s.stimulus = stimulusWords s.cfg.iw ((750 :: bitIntervals c [6, 5, 4, 3, 2, 1]).map .edge) ++
      Statement.word s.cfg.iw (.edge (bitInterval (c.getLsbD 0))) :: rest := by
    rw [hstimulus, frame_expand]
    rfl
  obtain ⟨t, hrun, hdropped, hcfg, -, -, hready, hcode, harmed', helapsed, hled⟩ :=
    sevenIntervalsMakeTheCommand s _ rest [] _ _ 750 hc hd harmed hsplit (noReset_edgeWords hintervals) hlast
      (edgeIntervals_edgeWords hintervals) (List.forall_mem_nil _) (by omega) (by omega) rfl hedge
  rw [hmod] at hcode
  exact ⟨t, hrun, hdropped, hcfg, decodeState_of_pending hready, hcode.trans (shiftedCode_bitIntervals c), harmed',
    helapsed, hled⟩

end Sys2Proof
